-- ==== Sys2Proof/Word.lean ====
section
/-! DEFINITION. The byte and the byte sequence (00_scope.md R12). -/

namespace Sys2Proof

/-- A byte, 0..255, bits numbered 7 down to 0 (R12). -/
abbrev Byte := BitVec 8

/-- A finite sequence of bytes, index 0 first (R12). -/
abbrev Bytes := List Byte

/-- A `u16` (R12). -/
abbrev U16 := BitVec 16

end Sys2Proof
end

