-- ==== Sys2Proof/Config.lean ====
section
/-! DEFINITION. The constants of 00_scope.md section 3, the build-time parameters, and the free values. -/

namespace Sys2Proof

/-- `START_DELIM`, the byte at index 0 of every frame (R5). -/
def startDelim : Byte := 0x7E

/-- `MAX_BODY`, the longest body (R6). -/
def maxBody : Nat := 65535

/-- `MIN_DESER_LEN`, the shortest input DESERIALIZE looks into (R9). -/
def minDeserLen : Nat := 5

/-- `MIN_FRAME_LEN`, the fewest buffered bytes the extraction loop examines (R10). -/
def minFrameLen : Nat := 5

/-- The build-time parameters that the spec leaves open (R7, R8, R125). They are fixed for a machine: no
operation changes them (R121). DESIGN CHOICE (log 1), safe: they stand in the state, so that every statement
about a state holds for each value of them. -/
structure Params where
  /-- `READ_SIZE`, the largest chunk one link read delivers (R7). -/
  readSize : Nat
  /-- `COMPACT_THRESHOLD`, the capacity above which compaction reallocates (R8). -/
  compactThreshold : Nat
  deriving DecidableEq, Repr

/-- The spec's default parameters: 16 and 128 (R7, R8). -/
def defaultParams : Params := { readSize := 16, compactThreshold := 128 }

/-- The constraint on the parameters (R125). -/
abbrev Params.Valid (p : Params) : Prop := 1 ≤ p.readSize

/-- `ACC_DEPTH`, the accumulator's capacity in bytes (R11). -/
def accDepth (p : Params) : Nat := 65538 + p.readSize

/-- A free natural number, for the storage capacity `cap` (R23, R122, I3). It has no body: nothing is known
of its values. The argument is the state's counter of draws (log 2, log 4). -/
opaque Config.freeNat : Nat → Nat

/-- A free byte, for the content of `scratch` outside the bytes read (R20). No body. The arguments are the
state's counter of draws and the index in the buffer (log 3, log 4). -/
opaque Config.freeByte : Nat → Nat → Byte

end Sys2Proof
end

