-- ==== Sys2Proof/Syntax.lean ====
section
/-! DEFINITION. The operation set: one constructor for each row of spec/opcode_table.json (30_encoding.md R55,
R56, R59). -/

namespace Sys2Proof

/-- The commands the host issues (R55), the two reserved codes (R56), and the framer's micro-steps (R59). -/
inductive Instr where
  /-- RESET, op 000 (R122). -/
  | reset
  /-- READ_CYCLE, op 001; its link event comes from the link port (R82). -/
  | readCycle
  /-- SERIALIZE, op 010, of a body (R67). -/
  | serialize (body : Bytes)
  /-- DESERIALIZE, op 011, of a byte sequence of any length (R69). -/
  | deserialize (bytes : Bytes)
  /-- CHECKSUM, op 100, of a byte sequence of any length (R63). -/
  | checksum (bytes : Bytes)
  /-- FRAME_SIZE, op 101, of a body length (R65). -/
  | frameSize (dataLen : U16)
  /-- The reserved code 110 (R56). -/
  | reserved110
  /-- The reserved code 111 (R56). -/
  | reserved111
  /-- FR_LINK_DATA (R83). -/
  | frLinkData
  /-- FR_LINK_CLOSED (R84). -/
  | frLinkClosed
  /-- FR_LINK_ERROR (R85). -/
  | frLinkError
  /-- FR_SHORT (R86). -/
  | frShort
  /-- FR_DROP (R87). -/
  | frDrop
  /-- FR_WAIT (R88). -/
  | frWait
  /-- FR_EMIT (R89). -/
  | frEmit
  /-- FR_DISCARD (R90). -/
  | frDiscard
  /-- FR_COMPACT (R95). -/
  | frCompact
  deriving DecidableEq, Repr

end Sys2Proof
end

