-- ==== Sys2Proof/Machine/Data.lean ====
section
/-! DEFINITION. The values the block carries: frames (10_state.md R21), errors and results (60_exceptions.md R106,
30_encoding.md R58), link events (20_memory.md R33), commands (30_encoding.md R54), the control state and the
names of its transitions (R19, R59). -/

namespace Sys2Proof

/-- The record of a frame (R21). `Frame.WF` in WellFormed.lean says when it is well-formed. -/
structure Frame where
  length : U16
  body : Bytes
  checksum : Byte
  deriving DecidableEq, Repr

/-- The link's failure value, opaque to the block (R33, I14): a name, as in `READ error(<name>)` (R60).
DESIGN CHOICE (log 18), safe: no rule looks into it. -/
abbrev Cause := List Char

/-- The error codes of R106, with the opaque cause of a link failure. -/
inductive Error where
  | frameTooShort
  | invalidStartDelimiter
  | checksumInvalid
  | lengthMismatch
  | linkReadError (cause : Cause)
  | linkClosed
  deriving DecidableEq, Repr

/-- What an admitted command returns (R58). -/
inductive Result where
  /-- RESET: `Ok(())`. -/
  | done
  /-- READ_CYCLE: `Ok(out)`, possibly empty (R96). -/
  | frames (out : List Frame)
  /-- SERIALIZE: `Ok(bytes)` in wire order (R36). -/
  | bytes (bytes : Bytes)
  /-- DESERIALIZE: `Ok(f)`. -/
  | frame (f : Frame)
  /-- CHECKSUM: `Ok(c)`, a `u8`. -/
  | checksum (c : Byte)
  /-- FRAME_SIZE: `Ok(n)`, a 17-bit value. -/
  | size (n : BitVec 17)
  /-- READ_CYCLE or DESERIALIZE: `Err(code)`. -/
  | err (e : Error)
  deriving DecidableEq, Repr

/-- One event of the link input port (R33). A `data` event is well-formed only with 1 to READ_SIZE bytes
(`LinkEvent.WF`); the others always are. -/
inductive LinkEvent where
  | data (chunk : Bytes)
  | empty
  | closed
  | error (cause : Cause)
  deriving DecidableEq, Repr

/-- The operand of a command: a value, not bits of a word (R54). -/
inductive Operand where
  | none
  | bytes (b : Bytes)
  | len (n : U16)
  deriving DecidableEq, Repr

/-- A command: `op[2:0]` and its operand (R54). -/
structure Command where
  op : BitVec 3
  operand : Operand
  deriving DecidableEq, Repr

/-- The framer's control state (R19). -/
inductive Fsm where
  | idle
  | scan
  | finish
  deriving DecidableEq, Repr

/-- The names of the framer's transitions (R59). -/
inductive Transition where
  | linkData
  | linkClosed
  | linkError
  | short
  | drop
  | wait
  | emit
  | discard
  | compact
  deriving DecidableEq, Repr

/-- The instruction that performs a transition: its row of the opcode table (R59). -/
def Transition.instr : Transition → Instr
  | .linkData => .frLinkData
  | .linkClosed => .frLinkClosed
  | .linkError => .frLinkError
  | .short => .frShort
  | .drop => .frDrop
  | .wait => .frWait
  | .emit => .frEmit
  | .discard => .frDiscard
  | .compact => .frCompact

end Sys2Proof
end

