-- ==== Sys2Proof/Machine/State.lean ====
section
/-! DEFINITION. The state of the block (10_state.md R26) with its ports (20_memory.md R28), the reasons a step can stop,
and the state after reset (70_reset_and_hazards.md R121). Plain data. -/

namespace Sys2Proof.Machine

/-- The state. The block has no register, flag or program counter (R24, R14). -/
structure State where
  /-- The accumulator; the head is the oldest byte held (R15, R29). -/
  acc : Bytes
  /-- The framer's control state (R19). -/
  fsm : Fsm
  /-- The frames decoded in the current cycle, in order; empty outside a cycle (R20, R121). -/
  out : List Frame
  /-- The scratch buffer the link read fills; no rule reads it (R20). -/
  scratch : Bytes
  /-- The accumulator's storage capacity; no output reads it (R23). -/
  cap : Nat
  /-- The model-only mark that some command was refused (R27). -/
  refused : Bool
  /-- The build-time parameters (R7, R8, R125). -/
  params : Params
  /-- The command port: the commands the host issues next, in order (R54, R44; log 5). -/
  commands : List Command
  /-- The link input port: the events the link delivers next, in order (R33, R34; log 6). -/
  link : List LinkEvent
  /-- A READ_CYCLE has been issued and blocks in LinkRead() (R33, R127; log 7). -/
  waiting : Bool
  /-- The results returned so far, oldest first (R58, R35; log 8). -/
  results : List Result
  /-- THE MODEL'S OWN: how many free values have been drawn (log 4). -/
  draws : Nat
  deriving DecidableEq, Repr

/-- Why the machine stops with a fault. The block itself has none (R105, R117). -/
inductive Fault where
  /-- Raised by READ_CYCLE if its micro-steps outnumber their bound. R93 rules this out; it is safe (log 15). -/
  | loopBound
  deriving DecidableEq, Repr

/-- Why a step gives no meaning. A command that the spec REFUSES (R113) is none of these: it has a next state, in which
the mark `refused` is set (R27; log 9). -/
inductive Refusal where
  /-- Raised by `exec` for an instruction without a meaning yet: none. Safe. -/
  | notModelled (mnemonic : String)
  /-- Raised by `step` for a pair (op, operand) whose operand is not of the form R54 and R57 give its op. Safe (log 13). -/
  | operandForm
  /-- Raised by RESET and READ_CYCLE while a READ_CYCLE is in progress: a host that breaks R44 has no step in the model
  (D21, R122). Safe (log 11). -/
  | hostProtocol
  /-- Raised by a framer transition whose selecting condition does not hold (R59). Safe (log 12). -/
  | notSelected (t : Transition)
  deriving DecidableEq, Repr

/-- The machine right after power-on (R121): the accumulator empty, the framer idle, the default parameters, nothing on
the ports. `cap` and `scratch` are unspecified there; the values 0 and sixteen zero bytes are DESIGN CHOICE (log 2, log 3),
unsafe. -/
def State.reset : State where
  acc := []
  fsm := .idle
  out := []
  scratch := List.replicate 16 0
  cap := 0
  refused := false
  params := defaultParams
  commands := []
  link := []
  waiting := false
  results := []
  draws := 0

end Sys2Proof.Machine
end

