-- ==== Sys2Proof/WellFormed.lean ====
section
/-! DEFINITION. When a command's operand, a link event and a body are admitted (30_encoding.md R57, 20_memory.md
R33, 10_state.md R22). The checks are Bools, so that a test can run them. -/

namespace Sys2Proof

/-- A FrameBuffer: 1 to 65535 bytes, the type code first (R22). -/
def isFrameBuffer (b : Bytes) : Bool := decide (1 ≤ b.length) && decide (b.length ≤ maxBody)

/-- The admission of a command by its operand alone (R57): only SERIALIZE has a condition. A reserved code is
never admitted (R56). A transition is not a command and has no operand: its condition is on the state (R59). -/
def Instr.wf : Instr → Bool
  | .reset => true
  | .readCycle => true
  | .serialize body => isFrameBuffer body
  | .deserialize _ => true
  | .checksum _ => true
  | .frameSize _ => true
  | .reserved110 => false
  | .reserved111 => false
  | .frLinkData => true
  | .frLinkClosed => true
  | .frLinkError => true
  | .frShort => true
  | .frDrop => true
  | .frWait => true
  | .frEmit => true
  | .frDiscard => true
  | .frCompact => true

/-- A link event is well-formed for a read size: a `data` event carries 1 to READ_SIZE bytes (R33, R57). -/
def LinkEvent.wf (readSize : Nat) : LinkEvent → Bool
  | .data c => decide (1 ≤ c.length) && decide (c.length ≤ readSize)
  | .empty => true
  | .closed => true
  | .error _ => true

end Sys2Proof
end

