-- ==== Sys2Proof/Machine/Wire.lean ====
section
/-! DEFINITION. The pure functions of the wire format and the codec: byte sums and byte order (00_scope.md R13),
checksum, frame size, MakeFrame, Serialize, Deserialize (40_codec.md R63 to R80). No state. -/

namespace Sys2Proof

/-- The byte at an index. No rule reads past the end (R12), so the default 0 is never part of a result. -/
def byteAt (b : Bytes) (i : Nat) : Byte := b.getD i 0

/-- The sum of the bytes as a natural number (R13). -/
def sumNat : Bytes → Nat
  | [] => 0
  | b :: bs => b.toNat + sumNat bs

/-- The sum modulo 256 (R13). -/
def sum8 (b : Bytes) : Byte := BitVec.ofNat 8 (sumNat b % 256)

/-- Big-endian assembly of two bytes (R13, R30). -/
def be16 (hi lo : Byte) : U16 := BitVec.ofNat 16 (hi.toNat * 256 + lo.toNat)

/-- The more significant byte (R13). -/
def hi8 (v : U16) : Byte := BitVec.ofNat 8 (v.toNat / 256)

/-- The less significant byte (R13). -/
def lo8 (v : U16) : Byte := BitVec.ofNat 8 (v.toNat % 256)

/-- `Checksum(s) = 0xFF - sum8(s)` (R63). -/
def checksumOf (s : Bytes) : Byte := 0xFF - sum8 s

/-- `totalFrameSize(dataLen) = 3 + dataLen + 1`, which never wraps (R65). -/
def totalFrameSize (dataLen : U16) : Nat := 3 + dataLen.toNat + 1

/-- The length field of a frame that starts at index 0 (R30, R47). -/
def lenField (b : Bytes) : U16 := be16 (byteAt b 1) (byteAt b 2)

/-- `MakeFrame(body)` (R66). -/
def makeFrame (body : Bytes) : Frame :=
  { length := BitVec.ofNat 16 body.length, body := body, checksum := checksumOf body }

/-- A frame is well-formed (R21). -/
def Frame.wf (f : Frame) : Bool :=
  decide (f.length.toNat = f.body.length) && isFrameBuffer f.body && decide (f.checksum = checksumOf f.body)

/-- `Serialize(Frame)`: the delimiter, the length big-endian, the body, then the body's checksum (R67, R46). -/
def serializeFrame (f : Frame) : Bytes :=
  startDelim :: hi8 f.length :: lo8 f.length :: (f.body ++ [checksumOf f.body])

/-- The wire bytes of the frame with a given body (R67). -/
def serializeBody (body : Bytes) : Bytes := serializeFrame (makeFrame body)

/-- `Deserialize(bytes)`, steps 1 to 7 in their order (R69). Step 6 is kept although it never fails (R71, I6). -/
def deserializeBytes (b : Bytes) : Except Error Frame :=
  if b.length < minDeserLen then .error .frameTooShort
  else if byteAt b 0 ≠ startDelim then .error .invalidStartDelimiter
  else if sum8 (b.drop 3) ≠ 0xFF then .error .checksumInvalid
  else if (lenField b).toNat ≠ b.length - 4 then .error .lengthMismatch
  else if checksumOf ((b.drop 3).take (lenField b).toNat) ≠ byteAt b (b.length - 1) then .error .checksumInvalid
  else .ok { length := lenField b, body := (b.drop 3).take (lenField b).toNat, checksum := byteAt b (b.length - 1) }

/-- `ChecksumValid(b)` (R80, R48). -/
def checksumValid (b : Bytes) : Bool := decide (4 ≤ b.length) && decide (sum8 (b.drop 3) = 0xFF)

/-- The transition that the head of the accumulator selects while the extraction loop runs (R59, R53). -/
def selectScan (acc : Bytes) : Transition :=
  if acc.length < minFrameLen then .short
  else if byteAt acc 0 ≠ startDelim then .drop
  else if acc.length < totalFrameSize (lenField acc) then .wait
  else match deserializeBytes (acc.take (totalFrameSize (lenField acc))) with
    | .ok _ => .emit
    | .error _ => .discard

/-- `Extract`, the extraction loop as a pure function (R98), for a minimum frame length (R10, R100) and an explicit
bound on the number of iterations: each one removes a byte or ends (R93), so the sequence's length is bound enough. -/
def extractWith (minLen : Nat) : Nat → Bytes → Bytes × List Frame
  | 0, x => (x, [])
  | n + 1, x =>
    if x.length < minLen then (x, [])
    else if byteAt x 0 ≠ startDelim then extractWith minLen n (x.drop 1)
    else if x.length < totalFrameSize (lenField x) then (x, [])
    else match deserializeBytes (x.take (totalFrameSize (lenField x))) with
      | .ok f => ((extractWith minLen n (x.drop (totalFrameSize (lenField x)))).1,
          f :: (extractWith minLen n (x.drop (totalFrameSize (lenField x)))).2)
      | .error _ => extractWith minLen n (x.drop (totalFrameSize (lenField x)))

/-- `Extract(x)` (R98): the bytes left and the frames found, in order. -/
def extract (x : Bytes) : Bytes × List Frame := extractWith minFrameLen x.length x

end Sys2Proof
end

