-- ==== Sys2Proof/Machine/Ops.lean ====
section
/-! DEFINITION. The named operations over the state: the primitives of 00_scope.md R14, the ports, and refusal. There is no
trap entry and no return from one (60_exceptions.md R117): an error is a result, given by `respond` (R105). -/

namespace Sys2Proof.Machine

/-- The machine's outcome type. -/
abbrev Out := Host.Outcome State Fault Refusal

/-- Return a result to the issuer of the command (R58, R105). -/
def respond (r : Result) (s : State) : State := { s with results := s.results ++ [r] }

/-- Refuse a command: no architectural state changes, no result is returned, the mark is set (R113, R27). -/
def refuse (s : State) : State := { s with refused := true }

/-- `AccAppend(c)` (R14, R16). The capacity grows to any value that holds the bytes (R23). -/
def accAppend (c : Bytes) (s : State) : State :=
  { s with acc := s.acc ++ c, cap := (s.acc ++ c).length + Config.freeNat s.draws, draws := s.draws + 1 }

/-- `AccDrop(n)` (R14, R29). -/
def accDrop (n : Nat) (s : State) : State := { s with acc := s.acc.drop n }

/-- `n` bytes of unspecified content (R20). -/
def freeBytes (draw n : Nat) : Bytes := (List.range n).map (Config.freeByte draw)

/-- The link read fills the scratch buffer: the bytes read, then unspecified content up to READ_SIZE (R20). -/
def fillScratch (c : Bytes) (s : State) : State :=
  { s with scratch := c ++ freeBytes s.draws (s.params.readSize - c.length), draws := s.draws + 1 }

/-- `LinkRead()` takes the next event off the link port, and the wait for it ends (R14, R33, R34). -/
def takeEvent (s : State) : State := { s with link := s.link.tail, waiting := false }

/-- Refuse the READ_CYCLE whose link event is not well-formed; the event has been read (R113, R57, R34; log 10). -/
def refuseEvent (s : State) : State := refuse (takeEvent s)

/-- Block in `LinkRead()` (R33, R127). -/
def blockOnLink (s : State) : State := { s with waiting := true }

/-- `fsm <- S` (R14). -/
def setFsm (f : Fsm) (s : State) : State := { s with fsm := f }

/-- `out <- []` (R83). -/
def clearOut (s : State) : State := { s with out := [] }

/-- `Emit(f)` (R14). -/
def emitFrame (f : Frame) (s : State) : State := { s with out := s.out ++ [f] }

/-- The capacity after compaction: above the threshold, the length of what is held (R95). -/
def compactedCap (threshold cap len : Nat) : Nat := if threshold < cap then len else cap

/-- Compaction: only the capacity changes, the content stays (R95, R97). -/
def compactStorage (s : State) : State :=
  { s with cap := compactedCap s.params.compactThreshold s.cap s.acc.length }

/-- What RESET does to the framer: the accumulator emptied, the control state idle, `cap` and `scratch` unspecified
(R121, R122). -/
def clearFramer (s : State) : State :=
  { s with acc := [], fsm := .idle, out := [], scratch := freeBytes s.draws s.params.readSize,
           cap := Config.freeNat s.draws, draws := s.draws + 1 }

/-- `L`, the length field of the current iteration (R20, R30). -/
def State.lenField (s : State) : U16 := Sys2Proof.lenField s.acc

/-- `T`, the block size of the current iteration (R20, R65). -/
def State.blockSize (s : State) : Nat := totalFrameSize s.lenField

/-- `blk`, the block of the current iteration, as `AccTake(T)` returns it (R14, R20). -/
def State.block (s : State) : Bytes := s.acc.take s.blockSize

/-- No read cycle is in progress, so the framer takes a command (R44, R38). -/
def framerFree (s : State) : Bool := decide (s.fsm = .idle) && !s.waiting

end Sys2Proof.Machine
end

