-- ==== Sys2Proof/Machine/Operands.lean ====
section
/-! DEFINITION. The admission of operands and link events (30_encoding.md R57): what is not admitted is refused (R113). -/

namespace Sys2Proof.Machine

/-- Answer a codec command: one result if its operand is admitted, a refusal otherwise (R57, R113). The codec reads and
writes no state of the framer (R25). -/
def answerIf (admitted : Bool) (r : Result) (s : State) : Out :=
  if admitted then .next (respond r s) else .next (refuse s)

/-- A SERIALIZE body is admitted (R57, R68). -/
def admitsBody (body : Bytes) : Bool := isFrameBuffer body

/-- A link event is admitted (R33, R57). -/
def admitsEvent (ev : LinkEvent) (s : State) : Bool := ev.wf s.params.readSize

/-- A chunk of a `data` event is admitted (R57, R83). -/
def admitsChunk (c : Bytes) (s : State) : Bool := admitsEvent (.data c) s

end Sys2Proof.Machine
end

