-- ==== Sys2Proof/Machine/Codec.lean ====
section
/-! DEFINITION. The meanings of the codec commands (40_codec.md) and of the two reserved codes (30_encoding.md R56). They
change nothing but the list of results or the mark `refused` (10_state.md R25). -/

namespace Sys2Proof.Machine

/-- SERIALIZE (R67, R68). -/
def execSerialize (body : Bytes) (s : State) : Out := answerIf (admitsBody body) (.bytes (serializeBody body)) s

/-- The result of DESERIALIZE (R69, R58). -/
def deserializeResult (b : Bytes) : Result :=
  match deserializeBytes b with
  | .ok f => .frame f
  | .error e => .err e

/-- DESERIALIZE (R69). -/
def execDeserialize (b : Bytes) (s : State) : Out := .next (respond (deserializeResult b) s)

/-- CHECKSUM (R63). -/
def execChecksum (b : Bytes) (s : State) : Out := .next (respond (.checksum (checksumOf b)) s)

/-- FRAME_SIZE (R65): 17 bits hold every size. -/
def execFrameSize (n : U16) (s : State) : Out := .next (respond (.size (BitVec.ofNat 17 (totalFrameSize n))) s)

/-- The reserved code 110 is refused (R56, R113). -/
def execReserved110 (s : State) : Out := .next (refuse s)

/-- The reserved code 111 is refused (R56, R113). -/
def execReserved111 (s : State) : Out := .next (refuse s)

end Sys2Proof.Machine
end

