-- ==== Sys2Proof/Machine/Framer.lean ====
section
/-! DEFINITION. The StreamFramer (41_stream_framer.md): the nine transitions, their selection (30_encoding.md R59), and
READ_CYCLE as the run of transitions from IDLE to IDLE; RESET (70_reset_and_hazards.md R122). A transition outside its
selecting condition is refused under a name of its own (log 12). -/

namespace Sys2Proof.Machine

/-- FR_LINK_DATA (R83): the chunk goes through the scratch buffer to the back of the accumulator. A chunk that is not
admitted is refused, the event being taken (R57, R113; log 10). -/
def execFrLinkData (s : State) : Out :=
  match s.fsm, s.link with
  | .idle, .data c :: _ =>
    if admitsChunk c s then .next (setFsm .scan (clearOut (accAppend c (fillScratch c (takeEvent s)))))
    else .next (refuseEvent s)
  | _, _ => .refused (.notSelected .linkData)

/-- FR_LINK_CLOSED (R84). -/
def execFrLinkClosed (s : State) : Out :=
  match s.fsm, s.link with
  | .idle, .empty :: _ => .next (respond (.err .linkClosed) (takeEvent s))
  | .idle, .closed :: _ => .next (respond (.err .linkClosed) (takeEvent s))
  | _, _ => .refused (.notSelected .linkClosed)

/-- FR_LINK_ERROR (R85). -/
def execFrLinkError (s : State) : Out :=
  match s.fsm, s.link with
  | .idle, .error cause :: _ => .next (respond (.err (.linkReadError cause)) (takeEvent s))
  | _, _ => .refused (.notSelected .linkError)

/-- A transition of the extraction loop, selected by `fsm` and the accumulator (R59). -/
def scanTransition (t : Transition) (s : State) (effect : Out) : Out :=
  match s.fsm with
  | .scan => if selectScan s.acc = t then effect else .refused (.notSelected t)
  | _ => .refused (.notSelected t)

/-- FR_SHORT (R86). -/
def execFrShort (s : State) : Out := scanTransition .short s (.next (setFsm .finish s))

/-- FR_DROP (R87). -/
def execFrDrop (s : State) : Out := scanTransition .drop s (.next (accDrop 1 s))

/-- FR_WAIT (R88). -/
def execFrWait (s : State) : Out := scanTransition .wait s (.next (setFsm .finish s))

/-- FR_EMIT (R89). -/
def execFrEmit (s : State) : Out :=
  scanTransition .emit s
    (match deserializeBytes s.block with
      | .ok f => .next (accDrop s.blockSize (emitFrame f s))
      | .error _ => .refused (.notSelected .emit))

/-- FR_DISCARD (R90). -/
def execFrDiscard (s : State) : Out := scanTransition .discard s (.next (accDrop s.blockSize s))

/-- FR_COMPACT (R95), with the return of the cycle (R96): `out` leaves the block and is empty again (R20; log 16). -/
def execFrCompact (s : State) : Out :=
  match s.fsm with
  | .finish => .next (clearOut (setFsm .idle (respond (.frames s.out) (compactStorage s))))
  | _ => .refused (.notSelected .compact)

/-- The transition that `fsm`, the link event and `acc` select (R59). None while the framer is idle and the link has no event, and
none for a chunk that is not admitted: FR_LINK_DATA is selected for 1 to READ_SIZE bytes (R83), and the READ_CYCLE of any other
chunk is refused without a transition (R57, V58). -/
def selectTransition (s : State) : Option Transition :=
  match s.fsm, s.link with
  | .idle, [] => none
  | .idle, .data c :: _ => if admitsChunk c s then some .linkData else none
  | .idle, .empty :: _ => some .linkClosed
  | .idle, .closed :: _ => some .linkClosed
  | .idle, .error _ :: _ => some .linkError
  | .scan, _ => some (selectScan s.acc)
  | .finish, _ => some .compact

/-- Perform a named transition (R81). -/
def runTransition (t : Transition) (s : State) : Out :=
  match t with
  | .linkData => execFrLinkData s
  | .linkClosed => execFrLinkClosed s
  | .linkError => execFrLinkError s
  | .short => execFrShort s
  | .drop => execFrDrop s
  | .wait => execFrWait s
  | .emit => execFrEmit s
  | .discard => execFrDiscard s
  | .compact => execFrCompact s

/-- Perform transitions until the framer is idle again (R81), at most as many as the first argument. -/
def runToIdle : Nat → State → Out
  | 0, _ => .fault .loopBound
  | n + 1, s =>
    match selectTransition s with
    | none => .next s
    | some t =>
      match runTransition t s with
      | .next s' => if s'.fsm = .idle then .next s' else runToIdle n s'
      | .fault r => .fault r
      | .refused r => .refused r

/-- How many bytes the next link event brings. -/
def nextChunkLen (s : State) : Nat :=
  match s.link with
  | .data c :: _ => c.length
  | _ => 0

/-- A bound on the transitions of one read cycle: the link's, one for each byte at most (R93), the loop's end, the
compaction. -/
def cycleBound (s : State) : Nat := s.acc.length + nextChunkLen s + 3

/-- READ_CYCLE (R82): one atomic run of transitions (R38). Without a link event it blocks in LinkRead() (R33, R127). A link event
that is not well-formed has it refused, with no transition performed (R57, R113). While another READ_CYCLE is in progress the host may not issue it (R44; log 11). -/
def execReadCycle (s : State) : Out :=
  if framerFree s then
    match s.link with
    | [] => .next (blockOnLink s)
    | ev :: _ => if admitsEvent ev s then runToIdle (cycleBound s) s else .next (refuseEvent s)
  else .refused .hostProtocol

/-- RESET (R122). While a READ_CYCLE is in progress the host may not issue it (R44, R122; log 11). -/
def execReset (s : State) : Out :=
  if framerFree s then .next (respond .done (clearFramer s)) else .refused .hostProtocol

/-- The names of the transitions that `runToIdle` performs, in order: the trace of 95_test_vectors.md. -/
def cycleTrace : Nat → State → List Transition
  | 0, _ => []
  | n + 1, s =>
    match selectTransition s with
    | none => []
    | some t =>
      match runTransition t s with
      | .next s' => if s'.fsm = .idle then [t] else t :: cycleTrace n s'
      | .fault _ => [t]
      | .refused _ => [t]

end Sys2Proof.Machine
end

