-- ==== Sys2Proof/Machine/Dispatch.lean ====
section
/-! DEFINITION. The one match over the operation set: one arm a constructor, each one call of its meaning. -/

namespace Sys2Proof.Machine

open Sys2Proof

def exec (i : Instr) (s : State) : Host.Outcome State Fault Refusal :=
  match i with
  | .reset => Sys2Proof.Machine.execReset s
  | .readCycle => Sys2Proof.Machine.execReadCycle s
  | .serialize body => Sys2Proof.Machine.execSerialize body s
  | .deserialize bytes => Sys2Proof.Machine.execDeserialize bytes s
  | .checksum bytes => Sys2Proof.Machine.execChecksum bytes s
  | .frameSize dataLen => Sys2Proof.Machine.execFrameSize dataLen s
  | .reserved110 => Sys2Proof.Machine.execReserved110 s
  | .reserved111 => Sys2Proof.Machine.execReserved111 s
  | .frLinkData => Sys2Proof.Machine.execFrLinkData s
  | .frLinkClosed => Sys2Proof.Machine.execFrLinkClosed s
  | .frLinkError => Sys2Proof.Machine.execFrLinkError s
  | .frShort => Sys2Proof.Machine.execFrShort s
  | .frDrop => Sys2Proof.Machine.execFrDrop s
  | .frWait => Sys2Proof.Machine.execFrWait s
  | .frEmit => Sys2Proof.Machine.execFrEmit s
  | .frDiscard => Sys2Proof.Machine.execFrDiscard s
  | .frCompact => Sys2Proof.Machine.execFrCompact s

end Sys2Proof.Machine
end

