-- ==== Sys2Proof/Decode.lean ====
section
/-! DEFINITION. The decoder and encoder of the command interface (30_encoding.md R54 to R57), and the reading of a
table word. The wire frame's own decoder and encoder are `deserializeBytes` and `serializeBody` (Machine/Wire.lean). -/

namespace Sys2Proof

/-- Why a pair (op, operand) is no command: its operand is not of the form its op takes (R54, R57). -/
inductive DecodeError where
  | operandForm
  deriving DecidableEq, Repr

/-- The instruction of a command (R55, R56, R57). A reserved code is one whatever its operand (R56). An operand of the
wrong length is decoded: its refusal is the meaning's (R68). -/
def decodeCommand (c : Command) : Except DecodeError Instr :=
  match c.op.toNat, c.operand with
  | 0, .none => .ok .reset
  | 1, .none => .ok .readCycle
  | 2, .bytes b => .ok (.serialize b)
  | 3, .bytes b => .ok (.deserialize b)
  | 4, .bytes b => .ok (.checksum b)
  | 5, .len n => .ok (.frameSize n)
  | 6, _ => .ok .reserved110
  | 7, _ => .ok .reserved111
  | _, _ => .error .operandForm

/-- The command of an instruction (R55). A transition has no command encoding (R59): the host cannot issue it. -/
def encodeCommand : Instr → Option Command
  | .reset => some { op := 0b000, operand := .none }
  | .readCycle => some { op := 0b001, operand := .none }
  | .serialize b => some { op := 0b010, operand := .bytes b }
  | .deserialize b => some { op := 0b011, operand := .bytes b }
  | .checksum b => some { op := 0b100, operand := .bytes b }
  | .frameSize n => some { op := 0b101, operand := .len n }
  | .reserved110 => some { op := 0b110, operand := .none }
  | .reserved111 => some { op := 0b111, operand := .none }
  | .frLinkData => none
  | .frLinkClosed => none
  | .frLinkError => none
  | .frShort => none
  | .frDrop => none
  | .frWait => none
  | .frEmit => none
  | .frDiscard => none
  | .frCompact => none

/-- The operand of zeros that a command code takes where only its code is given: none, one zero byte, or the length
0. DESIGN CHOICE (log 17), safe: the spec gives operands no bits (R54). -/
def zeroOperand (op : Nat) : Operand :=
  match op with
  | 2 => .bytes [0]
  | 3 => .bytes [0]
  | 4 => .bytes [0]
  | 5 => .len 0
  | _ => .none

/-- The command that a table word below 8 stands for (R55). -/
def tableCommand (w : Nat) : Command := { op := BitVec.ofNat 3 w, operand := zeroOperand w }

/-- The accumulator that a table word of 8 or more stands for: that head byte, then four zero bytes, the fewest with
which the extraction loop examines its head (R53, R10). -/
def tableAcc (w : Nat) : Bytes := [BitVec.ofNat 8 w, 0, 0, 0, 0]

/-- The instruction that a word of spec/opcode_table.json stands for. The table has two number spaces: a command code in
bits 2..0 (R55), and a head byte of the accumulator in bits 7..0 (R53, R59). A word below 8 is read as a command code with
an operand of zeros; a word of 8 to 255 as a head byte followed by zeros. DESIGN CHOICE (log 17). -/
def decodeTableWord (nbits w : Nat) : Option Instr :=
  if nbits = 0 ∨ 8 < nbits ∨ 256 ≤ w then none
  else if w < 8 then
    match decodeCommand (tableCommand w) with
    | .ok i => some i
    | .error _ => none
  else some (selectScan (tableAcc w)).instr

end Sys2Proof
end

