-- ==== Sys2Proof/Machine/Fetch.lean ====
section
/-! DEFINITION. What the next step runs. The block fetches no instructions (20_memory.md R43): a command comes from the
command port as a value; inside a read cycle the next transition is selected (30_encoding.md R59). -/

namespace Sys2Proof.Machine

/-- What a step does: run an instruction in a state, wait, or stop on a pair that is no command. -/
inductive Fetched where
  | run (i : Instr) (s : State)
  | wait
  | malformed (e : DecodeError)
  deriving DecidableEq, Repr

/-- The commands of the framer agent, which the host may not issue while a READ_CYCLE is in progress (R119, R44). A
transition is the framer's own. -/
def framerOwned : Instr → Bool
  | .reset => true
  | .readCycle => true
  | .serialize _ => false
  | .deserialize _ => false
  | .checksum _ => false
  | .frameSize _ => false
  | .reserved110 => false
  | .reserved111 => false
  | .frLinkData => true
  | .frLinkClosed => true
  | .frLinkError => true
  | .frShort => true
  | .frDrop => true
  | .frWait => true
  | .frEmit => true
  | .frDiscard => true
  | .frCompact => true

/-- The next command of the port. While a READ_CYCLE waits for the link, codec commands are served (R40) and a framer
command is not issued yet (R44; log 7). -/
def fetchCommand (s : State) : Fetched :=
  match s.commands with
  | [] => .wait
  | c :: rest =>
    match decodeCommand c with
    | .error e => .malformed e
    | .ok i => if s.waiting && framerOwned i then .wait else .run i { s with commands := rest }

/-- What the next step runs. In the middle of a read cycle: the selected transition (R59). A READ_CYCLE that waits goes on
as soon as the link has an event (R33; log 7). Otherwise the next command. -/
def fetch (s : State) : Fetched :=
  match s.fsm with
  | .idle =>
    if s.waiting && !s.link.isEmpty then .run .readCycle { s with waiting := false } else fetchCommand s
  | .scan => .run (selectScan s.acc).instr s
  | .finish => .run .frCompact s

/-- A state with a table word placed where `fetch` finds it (log 17): a command at the front of the command port of an idle
framer, or a head byte in the accumulator of a framer in its extraction loop. -/
def placeWord (s : State) (w : Nat) : State :=
  if w < 8 then { s with fsm := .idle, waiting := false, commands := tableCommand w :: s.commands }
  else { s with fsm := .scan, acc := tableAcc w }

end Sys2Proof.Machine
end

