-- ==== Sys2Proof/Machine/Step.lean ====
section
/-! DEFINITION. One step of the machine: run what `fetch` gives. One command is one step (20_memory.md R38). -/

namespace Sys2Proof.Machine

/-- One step. A machine that waits (no command, or a blocked link read) stays as it is (70_reset_and_hazards.md R127). -/
def step (s : State) : Host.Outcome State Fault Refusal :=
  match fetch s with
  | .run i t => exec i t
  | .wait => .next s
  | .malformed _ => .refused .operandForm

/-- `s` with a word of the opcode table placed where the next step takes its instruction from (log 17). -/
def State.withFetchWord (s : State) (_nbits w : Nat) : State := placeWord s w

end Sys2Proof.Machine
end

