-- ==== Sys2Proof/Machine/Flags.lean ====
section
/-! DEFINITION. The block has no flags (10_state.md R24). What a result carries in their place: its 4-bit status
(60_exceptions.md R106). -/

namespace Sys2Proof.Machine

/-- The status code of an error (R106). -/
def errorStatus : Error → BitVec 4
  | .frameTooShort => 1
  | .invalidStartDelimiter => 2
  | .checksumInvalid => 3
  | .lengthMismatch => 4
  | .linkReadError _ => 5
  | .linkClosed => 6

/-- The status code of a result (R106): 0 for every success. -/
def resultStatus : Result → BitVec 4
  | .done => 0
  | .frames _ => 0
  | .bytes _ => 0
  | .frame _ => 0
  | .checksum _ => 0
  | .size _ => 0
  | .err e => errorStatus e

end Sys2Proof.Machine
end

