-- ==== Sys2Proof/Machine/Program.lean ====
section
/-! DEFINITION. The command-program notation (30_encoding.md R60, R61): lines, their text, their expansion, and how a program
and its link events are placed on the ports. Text is a list of characters. -/

namespace Sys2Proof.Machine

/-- A line of a command program (R60) or the pseudo-command FEED (R61). -/
inductive Line where
  | reset
  | readData (chunk : Bytes)
  | readEmpty
  | readClosed
  | readError (cause : Cause)
  | ser (body : Bytes)
  | deser (bytes : Bytes)
  | cksum (bytes : Bytes)
  | fsize (n : U16)
  | feed (bytes : Bytes)
  deriving DecidableEq, Repr

/-- Consecutive chunks of `n` bytes, the last one shorter if need be (R61), at most as many as the first argument. -/
def chunksOf : Nat → Nat → Bytes → List Bytes
  | 0, _, _ => []
  | fuel + 1, n, b => if b.isEmpty then [] else b.take n :: chunksOf fuel n (b.drop n)

/-- The lines a line stands for: FEED is one READ line for each chunk of READ_SIZE bytes (R61). -/
def expandLine (readSize : Nat) : Line → List Line
  | .feed b => (chunksOf b.length readSize b).map .readData
  | l => [l]

/-- The command of a line (R60): its op and its operand. FEED has none of its own (R61). -/
def lineCommand : Line → Option Command
  | .reset => encodeCommand .reset
  | .readData _ => encodeCommand .readCycle
  | .readEmpty => encodeCommand .readCycle
  | .readClosed => encodeCommand .readCycle
  | .readError _ => encodeCommand .readCycle
  | .ser b => encodeCommand (.serialize b)
  | .deser b => encodeCommand (.deserialize b)
  | .cksum b => encodeCommand (.checksum b)
  | .fsize n => encodeCommand (.frameSize n)
  | .feed _ => none

/-- The link event that a READ line supplies (R60). -/
def lineEvent : Line → Option LinkEvent
  | .readData c => some (.data c)
  | .readEmpty => some .empty
  | .readClosed => some .closed
  | .readError cause => some (.error cause)
  | .reset => none
  | .ser _ => none
  | .deser _ => none
  | .cksum _ => none
  | .fsize _ => none
  | .feed _ => none

/-- A program placed on the ports: its commands behind those already issued, its events behind those pending. -/
def loadProgram (p : List Line) (s : State) : State :=
  { s with commands := s.commands ++ (p.flatMap (expandLine s.params.readSize)).filterMap lineCommand
           link := s.link ++ (p.flatMap (expandLine s.params.readSize)).filterMap lineEvent }

/-- Cut a line of text into words at spaces; a parenthesis is a word by itself. The second argument is the word being read,
last character first. -/
def cutWords : List Char → List Char → List (List Char)
  | [], w => if w.isEmpty then [] else [w.reverse]
  | c :: cs, w =>
    let done := if w.isEmpty then [] else [w.reverse]
    if c = ' ' then done ++ cutWords cs []
    else if c = '(' ∨ c = ')' then done ++ [c] :: cutWords cs []
    else cutWords cs (c :: w)

/-- The value of a hexadecimal digit. -/
def hexDigit (c : Char) : Option Nat :=
  if 48 ≤ c.toNat ∧ c.toNat ≤ 57 then some (c.toNat - 48)
  else if 65 ≤ c.toNat ∧ c.toNat ≤ 70 then some (c.toNat - 55)
  else if 97 ≤ c.toNat ∧ c.toNat ≤ 102 then some (c.toNat - 87)
  else none

/-- A byte: two hexadecimal digits (R60). -/
def readByte : List Char → Option Byte
  | [a, b] =>
    match hexDigit a, hexDigit b with
    | some x, some y => some (BitVec.ofNat 8 (x * 16 + y))
    | _, _ => none
  | _ => none

/-- Bytes separated by spaces, in wire order (R60). -/
def readBytes : List (List Char) → Option Bytes
  | [] => some []
  | w :: ws =>
    match readByte w, readBytes ws with
    | some b, some bs => some (b :: bs)
    | _, _ => none

/-- The bytes up to a closing parenthesis, which ends the line (R60). -/
def readClosedBytes : List (List Char) → Option Bytes
  | [] => none
  | w :: ws =>
    if w = [')'] then (if ws.isEmpty then some [] else none)
    else match readByte w, readClosedBytes ws with
      | some b, some bs => some (b :: bs)
      | _, _ => none

/-- A number in a base, most significant digit first. -/
def readDigits (base : Nat) : List Char → Nat → Option Nat
  | [], v => some v
  | c :: cs, v =>
    match hexDigit c with
    | some d => if d < base then readDigits base cs (v * base + d) else none
    | none => none

/-- A `u16`, decimal or `0x` hexadecimal (R60). -/
def readLen (w : List Char) : Option U16 :=
  let v := match w with
    | '0' :: 'x' :: c :: cs => readDigits 16 (c :: cs) 0
    | c :: cs => readDigits 10 (c :: cs) 0
    | [] => none
  match v with
  | some n => if n < 65536 then some (BitVec.ofNat 16 n) else none
  | none => none

/-- A READ line after its first word (R60). -/
def readEvent : List (List Char) → Option Line
  | [['e', 'm', 'p', 't', 'y']] => some .readEmpty
  | [['c', 'l', 'o', 's', 'e', 'd']] => some .readClosed
  | [['e', 'r', 'r', 'o', 'r'], ['('], name, [')']] => some (.readError name)
  | ['d', 'a', 't', 'a'] :: ['('] :: ws => (readClosedBytes ws).map .readData
  | _ => none

/-- The line that a text stands for (R60, R61). -/
def parseLine (text : List Char) : Option Line :=
  match cutWords text [] with
  | [['R', 'E', 'S', 'E', 'T']] => some .reset
  | ['R', 'E', 'A', 'D'] :: ws => readEvent ws
  | ['S', 'E', 'R'] :: ws => (readBytes ws).map .ser
  | ['D', 'E', 'S', 'E', 'R'] :: ws => (readBytes ws).map .deser
  | ['C', 'K', 'S', 'U', 'M'] :: ws => (readBytes ws).map .cksum
  | [['F', 'S', 'I', 'Z', 'E'], w] => (readLen w).map .fsize
  | ['F', 'E', 'E', 'D'] :: ws => (readBytes ws).map .feed
  | _ => none

end Sys2Proof.Machine
end

