-- ==== Sys2Proof/Safety.lean ====
section
/-! DEFINITION. The terms claims use: quiescence (10_state.md R18), the invariant of the machine, the bytes of a sequence of
link events and the frames of a sequence of results (41_stream_framer.md R100). -/

namespace Sys2Proof.Machine

/-- The accumulator holds no byte the extraction loop could act on (R18). -/
abbrev Quiescent (x : Bytes) : Prop :=
  x.length < minFrameLen ∨ (byteAt x 0 = startDelim ∧ x.length < totalFrameSize (lenField x))

/-- Every frame a result carries is well-formed (R21). -/
def resultWf : Result → Bool
  | .frames out => out.all Frame.wf
  | .frame f => f.wf
  | .done => true
  | .bytes _ => true
  | .checksum _ => true
  | .size _ => true
  | .err _ => true

/-- What every state of a run meets. -/
structure State.Inv (s : State) : Prop where
  /-- The parameters' constraint (R125). -/
  params : s.params.Valid
  /-- Outside a cycle the accumulator is quiescent, and `out` does not exist (R18, R20). -/
  idle : s.fsm = .idle → Quiescent s.acc ∧ s.out = []
  /-- The loop has ended only on a quiescent accumulator (R18). -/
  finish : s.fsm = .finish → Quiescent s.acc
  /-- Between operations at most 65538 bytes are held (R17). -/
  bound : s.fsm ≠ .scan → s.acc.length ≤ 65538
  /-- During a cycle the accumulator never exceeds its depth (R17, R11). -/
  depth : s.acc.length ≤ accDepth s.params
  /-- The capacity holds the accumulator (R23). -/
  capacity : s.acc.length ≤ s.cap
  /-- The scratch buffer has READ_SIZE bytes (R20). -/
  scratch : s.scratch.length = s.params.readSize
  /-- Every frame found or returned is well-formed (R21, R73). -/
  frames : (∀ f ∈ s.out, f.wf = true) ∧ (∀ r ∈ s.results, resultWf r = true)
  /-- A READ_CYCLE waits for the link only with the framer idle (R19, R33). -/
  waits : s.waiting = true → s.fsm = .idle

/-- The bytes a link event brings. -/
def eventBytes : LinkEvent → Bytes
  | .data c => c
  | .empty => []
  | .closed => []
  | .error _ => []

/-- The bytes of a sequence of link events, in order (R100). -/
def streamBytes (evs : List LinkEvent) : Bytes := evs.flatMap eventBytes

/-- The frames a result carries out of a read cycle. -/
def resultFrames : Result → List Frame
  | .frames out => out
  | .done => []
  | .bytes _ => []
  | .frame _ => []
  | .checksum _ => []
  | .size _ => []
  | .err _ => []

/-- The frames of a sequence of results, in order (R100). -/
def framesOf (rs : List Result) : List Frame := rs.flatMap resultFrames

/-- The command READ_CYCLE (R55). -/
def readCommand : Command := { op := 0b001, operand := .none }

/-- A state whose host issues one READ_CYCLE for each of the events the link delivers, and nothing else. -/
structure ReadsEvents (s : State) (evs : List LinkEvent) : Prop where
  free : s.fsm = .idle ∧ s.waiting = false
  commands : s.commands = List.replicate evs.length readCommand
  events : s.link = evs
  admitted : ∀ e ∈ evs, e.wf s.params.readSize = true

/-- Byte sequences laid end to end: before each frame a gap, then its wire bytes; after the last one a tail. -/
def layOut : List (Bytes × Frame) → Bytes → Bytes
  | [], tail => tail
  | (gap, f) :: rest, tail => gap ++ serializeFrame f ++ layOut rest tail

end Sys2Proof.Machine
end

