-- ==== Sys2Proof/Certificates/Slice0/Obligations.lean ====
section
/-! DEFINITION. The statements about this block, for the provers. Each docstring names the rule of spec/ it formalises. -/

open Sys2Proof Sys2Proof.Machine

/-! ### The command interface and the step -/

/-- R55, R56: each code of the operation set, with an operand of its form, decodes to its command. -/
def Obligations.CommandCodesDecode : Prop :=
  decodeCommand ⟨0b000, .none⟩ = .ok .reset ∧
  decodeCommand ⟨0b001, .none⟩ = .ok .readCycle ∧
  (∀ b, decodeCommand ⟨0b010, .bytes b⟩ = .ok (.serialize b)) ∧
  (∀ b, decodeCommand ⟨0b011, .bytes b⟩ = .ok (.deserialize b)) ∧
  (∀ b, decodeCommand ⟨0b100, .bytes b⟩ = .ok (.checksum b)) ∧
  (∀ n, decodeCommand ⟨0b101, .len n⟩ = .ok (.frameSize n)) ∧
  (∀ o, decodeCommand ⟨0b110, o⟩ = .ok .reserved110) ∧
  (∀ o, decodeCommand ⟨0b111, o⟩ = .ok .reserved111)

/-- Every command decodes from its encoding, with its whole operand; and a pair that decodes is the encoding of what it decodes
to, but for the operand of a reserved code, which is ignored. -/
def Obligations.CommandRoundTrip : Prop :=
  (∀ i c, encodeCommand i = some c → decodeCommand c = .ok i) ∧
  (∀ c i, decodeCommand c = .ok i → ∃ c', encodeCommand i = some c' ∧ c'.op = c.op ∧
    (i ≠ .reserved110 → i ≠ .reserved111 → c' = c))

/-- A step of an idle framer runs the decoded command, taken off the port; a pair that is no command stops the step; without a
command the block waits. While a READ_CYCLE waits for the link (log 7): it goes on when the link has an event, and until then
codec commands are served and framer commands are not issued. In the middle of a read cycle the step performs the selected
transition (log 14). -/
def Obligations.StepRunsTheDecodedCommand : Prop :=
  (∀ s c rest i, s.fsm = .idle → s.waiting = false → s.commands = c :: rest → decodeCommand c = .ok i →
    step s = exec i { s with commands := rest }) ∧
  (∀ s c rest e, s.fsm = .idle → s.waiting = false → s.commands = c :: rest → decodeCommand c = .error e →
    step s = .refused .operandForm) ∧
  (∀ s, s.fsm = .idle → s.waiting = false → s.commands = [] → step s = .next s) ∧
  (∀ s, s.fsm = .idle → s.waiting = true → s.link ≠ [] → step s = exec .readCycle { s with waiting := false }) ∧
  (∀ s c rest i, s.fsm = .idle → s.waiting = true → s.link = [] → s.commands = c :: rest → decodeCommand c = .ok i →
    step s = if i = .reset ∨ i = .readCycle then .next s else exec i { s with commands := rest }) ∧
  (∀ s, s.fsm = .idle → s.waiting = true → s.link = [] → s.commands = [] → step s = .next s) ∧
  (∀ s, s.fsm ≠ .idle → ∃ τ, selectTransition s = some τ ∧ step s = exec τ.instr s)

/-- The words of the opcode table, each in its number space (log 17): the eight command codes with operands of zeros, and a head
byte that is or is not the start delimiter; and a step on a placed word runs the instruction it stands for. -/
def Obligations.TableWordsDecodeAndRun : Prop :=
  (decodeTableWord 8 0b000 = some .reset ∧ decodeTableWord 8 0b001 = some .readCycle ∧
    decodeTableWord 8 0b010 = some (.serialize [0]) ∧ decodeTableWord 8 0b011 = some (.deserialize [0]) ∧
    decodeTableWord 8 0b100 = some (.checksum [0]) ∧ decodeTableWord 8 0b101 = some (.frameSize 0) ∧
    decodeTableWord 8 0b110 = some .reserved110 ∧ decodeTableWord 8 0b111 = some .reserved111 ∧
    decodeTableWord 8 0x7E = some .frDiscard ∧ decodeTableWord 8 0x41 = some .frDrop) ∧
  (∀ (s : State) (w : Nat) (i : Instr), decodeTableWord 8 w = some i →
    ∃ t, step (s.withFetchWord 8 w) = exec i t ∧ t.link = s.link ∧ t.results = s.results ∧ t.refused = s.refused ∧
      t.commands = s.commands)

/-! ### The wire format and the checksum -/

/-- R46: the fields of a frame, byte by byte. -/
def Obligations.SerializedFrameLayout : Prop :=
  ∀ body : Bytes, 1 ≤ body.length → body.length ≤ 65535 →
    (serializeBody body).length = body.length + 4 ∧
    (serializeBody body)[0]? = some 0x7E ∧
    (serializeBody body)[1]? = some (BitVec.ofNat 8 (body.length / 256)) ∧
    (serializeBody body)[2]? = some (BitVec.ofNat 8 (body.length % 256)) ∧
    (∀ k, k < body.length → (serializeBody body)[3 + k]? = body[k]?) ∧
    (serializeBody body)[body.length + 3]? =
      some (0xFF - BitVec.ofNat 8 (((((serializeBody body).drop 3).take body.length).map BitVec.toNat).sum % 256))

/-- R64: the four laws of checksum arithmetic. -/
def Obligations.ChecksumLaws : Prop :=
  (∀ s s' : Bytes, s.Perm s' → s'.foldl (· + ·) 0 = sum8 s) ∧
  (∀ x : Byte, (0xFF - x).toNat = 255 - x.toNat ∧ 0xFF - x = ~~~x) ∧
  (∀ s, sum8 (s ++ [checksumOf s]) = 0xFF) ∧
  (∀ s c, sum8 (s ++ [c]) = 0xFF ↔ c = checksumOf s)

/-- R80: the predicate ChecksumValid, and that it decides Deserialize where steps 1, 2 and 5 pass. -/
def Obligations.ChecksumValidDecides : Prop :=
  (∀ b : Bytes, checksumValid b = true ↔ 4 ≤ b.length ∧ ((b.drop 3).map BitVec.toNat).sum % 256 = 255) ∧
  (∀ b : Bytes, 5 ≤ b.length → byteAt b 0 = 0x7E → (be16 (byteAt b 1) (byteAt b 2)).toNat = b.length - 4 →
    ((∃ f, deserializeBytes b = .ok f) ↔ checksumValid b = true))

/-! ### The codec commands -/

/-- R63: CHECKSUM returns 0xFF minus the sum modulo 256 and changes nothing else. -/
def Obligations.ChecksumCommandResult : Prop :=
  ∀ (b : Bytes) (s : State),
    decodeCommand ⟨0b100, .bytes b⟩ = .ok (.checksum b) ∧
    ∃ c : Byte, exec (.checksum b) s = .next { s with results := s.results ++ [.checksum c] } ∧
      c.toNat = 255 - (b.map BitVec.toNat).sum % 256

/-- R65: FRAME_SIZE returns 3 + dataLen + 1 in 17 bits, never wrapped, and changes nothing else. -/
def Obligations.FrameSizeCommandResult : Prop :=
  ∀ (n : U16) (s : State),
    decodeCommand ⟨0b101, .len n⟩ = .ok (.frameSize n) ∧
    ∃ r : BitVec 17, exec (.frameSize n) s = .next { s with results := s.results ++ [.size r] } ∧ r.toNat = 3 + n.toNat + 1

/-- R66: MakeFrame gives a well-formed frame with the body, its length and its checksum, and gives every well-formed frame. -/
def Obligations.MakeFrameLaws : Prop :=
  (∀ body : Bytes, 1 ≤ body.length → body.length ≤ 65535 →
    (makeFrame body).length.toNat = body.length ∧ (makeFrame body).body = body ∧
    (makeFrame body).checksum = checksumOf body ∧ (makeFrame body).wf = true) ∧
  (∀ f : Frame, f.wf = true → f = makeFrame f.body)

/-- R67: SERIALIZE returns the wire bytes and changes nothing else. -/
def Obligations.SerializeCommandResult : Prop :=
  ∀ (body : Bytes) (s : State), 1 ≤ body.length → body.length ≤ 65535 →
    decodeCommand ⟨0b010, .bytes body⟩ = .ok (.serialize body) ∧
    ∃ w : Bytes, exec (.serialize body) s = .next { s with results := s.results ++ [.bytes w] } ∧
      w = [0x7E, BitVec.ofNat 8 (body.length / 256), BitVec.ofNat 8 (body.length % 256)] ++ body ++ [checksumOf body] ∧
      w.length = body.length + 4 ∧ w.length = totalFrameSize (BitVec.ofNat 16 body.length)

/-- R69, R70: DESERIALIZE checks in step order, reports the first failing step, else returns the frame; it changes nothing
else. -/
def Obligations.DeserializeCommandResult : Prop :=
  ∀ (b : Bytes) (s : State),
    decodeCommand ⟨0b011, .bytes b⟩ = .ok (.deserialize b) ∧
    exec (.deserialize b) s = .next { s with results := s.results ++ [
      if b.length < 5 then .err .frameTooShort
      else if byteAt b 0 ≠ 0x7E then .err .invalidStartDelimiter
      else if ((b.drop 3).map BitVec.toNat).sum % 256 ≠ 255 then .err .checksumInvalid
      else if (byteAt b 1).toNat * 256 + (byteAt b 2).toNat ≠ b.length - 4 then .err .lengthMismatch
      else if checksumOf ((b.drop 3).take (b.length - 4)) ≠ byteAt b (b.length - 1) then .err .checksumInvalid
      else .frame ⟨BitVec.ofNat 16 (b.length - 4), (b.drop 3).take (b.length - 4), byteAt b (b.length - 1)⟩] }

/-- R71: where steps 3 and 5 pass, step 6 passes. -/
def Obligations.StepSixNeverFails : Prop :=
  ∀ b : Bytes, 5 ≤ b.length → sum8 (b.drop 3) = 0xFF → (be16 (byteAt b 1) (byteAt b 2)).toNat = b.length - 4 →
    b.drop 3 = (b.drop 3).take (b.length - 4) ++ [byteAt b (b.length - 1)] ∧
    checksumOf ((b.drop 3).take (b.length - 4)) = byteAt b (b.length - 1)

/-- R72: the type byte and the payload count only through the checksum sum, and every type code decodes. -/
def Obligations.TypeAndPayloadOnlySummed : Prop :=
  (∀ b b' : Bytes, b.length = b'.length → b.take 3 = b'.take 3 → sum8 (b.drop 3) = sum8 (b'.drop 3) →
    (∀ e, deserializeBytes b = .error e ↔ deserializeBytes b' = .error e)) ∧
  (∀ (code : Byte) (payload : Bytes), payload.length ≤ 65534 →
    deserializeBytes (serializeBody (code :: payload)) = .ok (makeFrame (code :: payload)))

/-- R73: every frame that DESERIALIZE returns is well-formed. -/
def Obligations.DecodedFramesWellFormed : Prop :=
  ∀ (b : Bytes) (f : Frame), deserializeBytes b = .ok f →
    f.length.toNat = b.length - 4 ∧ f.body.length = b.length - 4 ∧ 1 ≤ f.body.length ∧ f.body.length ≤ 65535 ∧
    f.checksum = checksumOf f.body

/-- R74: no input with length field 0 decodes, and no frame has an empty body. -/
def Obligations.LengthZeroNeverDecodes : Prop :=
  (∀ b : Bytes, be16 (byteAt b 1) (byteAt b 2) = 0 →
    (b.length = 4 → deserializeBytes b = .error .frameTooShort) ∧
    (5 ≤ b.length → byteAt b 0 = 0x7E → sum8 (b.drop 3) = 0xFF → deserializeBytes b = .error .lengthMismatch) ∧
    (∀ f, deserializeBytes b ≠ .ok f)) ∧
  (∀ b f, deserializeBytes b = .ok f → f.body ≠ [])

/-- R75: inputs too long, frames laid end to end, a frame with bytes after it, and a frame cut short do not decode. -/
def Obligations.OtherLengthsNeverDecode : Prop :=
  (∀ b : Bytes, 65539 < b.length → ∀ f, deserializeBytes b ≠ .ok f) ∧
  (∀ b : Bytes, 65539 < b.length → byteAt b 0 = 0x7E → sum8 (b.drop 3) = 0xFF →
    deserializeBytes b = .error .lengthMismatch) ∧
  (∀ fs : List Frame, 2 ≤ fs.length → (∀ f ∈ fs, f.wf = true) →
    deserializeBytes (fs.flatMap serializeFrame) = .error .checksumInvalid ∨
    deserializeBytes (fs.flatMap serializeFrame) = .error .lengthMismatch) ∧
  (∀ (f : Frame) (y : Bytes), f.wf = true → y ≠ [] → ∀ g, deserializeBytes (serializeFrame f ++ y) ≠ .ok g) ∧
  (∀ (f : Frame) (k : Nat), f.wf = true → k < (serializeFrame f).length →
    ∀ g, deserializeBytes ((serializeFrame f).take k) ≠ .ok g)

/-- R76: Deserialize reads back every well-formed frame that Serialize writes. -/
def Obligations.DeserializeAfterSerialize : Prop :=
  ∀ f : Frame, f.wf = true → deserializeBytes (serializeFrame f) = .ok f

/-- R77: Serialize writes back what Deserialize read; DESERIALIZE accepts exactly the outputs of SERIALIZE; two well-formed
frames with the same wire bytes are the same. -/
def Obligations.SerializeAfterDeserialize : Prop :=
  (∀ (b : Bytes) (f : Frame), deserializeBytes b = .ok f → serializeFrame f = b) ∧
  (∀ b : Bytes, (∃ f, deserializeBytes b = .ok f) ↔ ∃ f : Frame, f.wf = true ∧ serializeFrame f = b) ∧
  (∀ f g : Frame, f.wf = true → g.wf = true → serializeFrame f = serializeFrame g → f = g)

/-- R78: a flipped bit at index 3 or above is always detected. -/
def Obligations.SingleBitFlipDetected : Prop :=
  ∀ (f : Frame) (i k : Nat), f.wf = true → 3 ≤ i → i < (serializeFrame f).length → k < 8 →
    deserializeBytes ((serializeFrame f).set i (byteAt (serializeFrame f) i ^^^ (1#8 <<< k))) = .error .checksumInvalid

/-- R79: a changed delimiter, a changed length field, and compensating changes. -/
def Obligations.OtherCorruptions : Prop :=
  ∀ f : Frame, f.wf = true →
    (∀ x : Byte, x ≠ 0x7E → deserializeBytes ((serializeFrame f).set 0 x) = .error .invalidStartDelimiter) ∧
    (∀ hi lo : Byte, be16 hi lo ≠ f.length →
      deserializeBytes (((serializeFrame f).set 1 hi).set 2 lo) = .error .lengthMismatch) ∧
    (∀ y : Bytes, y.length = f.body.length + 1 → sum8 y = sum8 ((serializeFrame f).drop 3) →
      deserializeBytes ((serializeFrame f).take 3 ++ y) = .ok ⟨f.length, y.take f.body.length, byteAt y f.body.length⟩)

/-! ### Refusal and RESET -/

/-- R56, R68, R113: the commands without a meaning are refused: no result, no architectural change, the mark set. (Whether a
refused READ_CYCLE takes the malformed event off the link port is not stated here: log 10.) -/
def Obligations.RefusalsChangeOnlyTheMark : Prop :=
  (∀ o, decodeCommand ⟨0b110, o⟩ = .ok .reserved110 ∧ decodeCommand ⟨0b111, o⟩ = .ok .reserved111) ∧
  (∀ s : State, exec .reserved110 s = .next { s with refused := true } ∧
    exec .reserved111 s = .next { s with refused := true }) ∧
  (∀ (body : Bytes) (s : State), body.length = 0 ∨ 65535 < body.length →
    exec (.serialize body) s = .next { s with refused := true }) ∧
  (∀ (s : State) (c : Bytes) (rest : List LinkEvent), s.fsm = .idle → s.waiting = false → s.link = .data c :: rest →
    c.length = 0 ∨ s.params.readSize < c.length →
    ∃ l, exec .readCycle s = .next { s with refused := true, link := l })

/-- R27: the mark is set by every refusal and is never cleared, by no instruction and in no run. -/
def Obligations.RefusedMarkIsKept : Prop :=
  (∀ i s t, exec i s = .next t → s.refused = true → t.refused = true) ∧
  (∀ n s t, core.run n s = .next t → s.refused = true → t.refused = true) ∧
  (∀ i s t, exec i s = .next t → i = .reserved110 ∨ i = .reserved111 ∨
    (∃ body, i = .serialize body ∧ (body.length = 0 ∨ 65535 < body.length)) ∨
    (i = .readCycle ∧ ∃ c rest, s.link = .data c :: rest ∧ (c.length = 0 ∨ s.params.readSize < c.length)) →
    t.refused = true)

/-- The parameters are fixed at build: no instruction and no step changes them. -/
def Obligations.ParametersNeverChange : Prop :=
  (∀ i s t, exec i s = .next t → t.params = s.params) ∧ (∀ s t, step s = .next t → t.params = s.params)

/-- R122: RESET empties the accumulator and idles the framer, returns Ok(()), reads no link event, and leaves the ports, the
parameters and the mark. `cap` and `scratch` become unspecified, so nothing is said of them. -/
def Obligations.ResetCommandResult : Prop :=
  decodeCommand ⟨0b000, .none⟩ = .ok .reset ∧
  ∀ s : State, s.fsm = .idle → s.waiting = false →
    ∃ t, exec .reset s = .next t ∧ t.acc = [] ∧ t.fsm = .idle ∧ t.results = s.results ++ [.done] ∧ t.link = s.link ∧
      t.out = [] ∧ t.commands = s.commands ∧ t.params = s.params ∧ t.refused = s.refused ∧ t.waiting = false

/-- A RESET or a READ_CYCLE issued while a READ_CYCLE is in progress has no step (log 11; D21). -/
def Obligations.BrokenHostDutyStops : Prop :=
  ∀ s : State, s.fsm ≠ .idle ∨ s.waiting = true →
    exec .reset s = .refused .hostProtocol ∧ exec .readCycle s = .refused .hostProtocol

/-- R121: the state at power-on, and that RESET gives the same accumulator, control state and output list and leaves the parameters
and the mark. -/
def Obligations.ResetStateValues : Prop :=
  (State.reset.acc = [] ∧ State.reset.fsm = .idle ∧ State.reset.out = [] ∧ State.reset.refused = false) ∧
  (∀ s t, exec .reset s = .next t → t.acc = State.reset.acc ∧ t.fsm = State.reset.fsm ∧ t.out = State.reset.out ∧
    t.params = s.params ∧ t.refused = s.refused)

/-! ### The framer's transitions -/

/-- FR_LINK_DATA appends the chunk and enters the extraction loop; a chunk out of range is refused (R83). Two clauses are not
R83's: that the chunk stands at the FRONT of `scratch` is the model's DESIGN CHOICE (log 3; R20 says only that the link read
fills the buffer), and that `cap` holds the accumulator is R23's bound, in a field the model chose to keep (log 2). -/
def Obligations.LinkDataTransition : Prop :=
  (∀ (s : State) (c : Bytes) (rest : List LinkEvent), s.fsm = .idle → s.link = .data c :: rest →
    1 ≤ c.length → c.length ≤ s.params.readSize →
    ∃ t, exec .frLinkData s = .next t ∧ t.acc = s.acc ++ c ∧ t.out = [] ∧ t.fsm = .scan ∧ t.link = rest ∧
      t.scratch.take c.length = c ∧ t.acc.length ≤ t.cap ∧ t.refused = s.refused ∧ t.params = s.params ∧
      t.commands = s.commands ∧ t.results = s.results ∧
      (s.acc.length ≤ 65538 → t.acc.length ≤ 65538 + s.params.readSize)) ∧
  (∀ (s : State) (c : Bytes) (rest : List LinkEvent), s.fsm = .idle → s.link = .data c :: rest →
    c.length = 0 ∨ s.params.readSize < c.length →
    ∃ t, exec .frLinkData s = .next t ∧ t.refused = true ∧ t.acc = s.acc ∧ t.fsm = .idle ∧ t.results = s.results)

/-- R84: FR_LINK_CLOSED writes nothing and returns LinkClosed, for an empty read and for a closed link. (Of the model's field
`waiting`, log 7, nothing is said.) -/
def Obligations.LinkClosedTransition : Prop :=
  ∀ (s : State) (ev : LinkEvent) (rest : List LinkEvent), s.fsm = .idle → s.link = ev :: rest →
    ev = .empty ∨ ev = .closed →
    ∃ w, exec .frLinkClosed s = .next { s with link := rest, waiting := w, results := s.results ++ [.err .linkClosed] }

/-- R85: FR_LINK_ERROR writes nothing and returns LinkReadError with the cause unchanged. -/
def Obligations.LinkErrorTransition : Prop :=
  ∀ (s : State) (cause : Cause) (rest : List LinkEvent), s.fsm = .idle → s.link = .error cause :: rest →
    ∃ w, exec .frLinkError s =
      .next { s with link := rest, waiting := w, results := s.results ++ [.err (.linkReadError cause)] }

/-- R86: FR_SHORT ends the loop on fewer than 5 bytes. -/
def Obligations.ShortTransition : Prop :=
  ∀ s : State, s.fsm = .scan → s.acc.length < 5 → exec .frShort s = .next { s with fsm := .finish }

/-- R87: FR_DROP drops exactly one byte. -/
def Obligations.DropTransition : Prop :=
  ∀ s : State, s.fsm = .scan → 5 ≤ s.acc.length → byteAt s.acc 0 ≠ 0x7E →
    exec .frDrop s = .next { s with acc := s.acc.drop 1 }

/-- R88: FR_WAIT ends the loop on a frame that has not all arrived, and consumes nothing. -/
def Obligations.WaitTransition : Prop :=
  ∀ s : State, s.fsm = .scan → 5 ≤ s.acc.length → byteAt s.acc 0 = 0x7E →
    s.acc.length < totalFrameSize (be16 (byteAt s.acc 1) (byteAt s.acc 2)) →
    exec .frWait s = .next { s with fsm := .finish }

/-- R89: FR_EMIT consumes the block and appends its frame, which is well-formed. -/
def Obligations.EmitTransition : Prop :=
  ∀ (s : State) (f : Frame), s.fsm = .scan → 5 ≤ s.acc.length → byteAt s.acc 0 = 0x7E →
    totalFrameSize (be16 (byteAt s.acc 1) (byteAt s.acc 2)) ≤ s.acc.length →
    deserializeBytes (s.acc.take (totalFrameSize (be16 (byteAt s.acc 1) (byteAt s.acc 2)))) = .ok f →
    exec .frEmit s = .next { s with acc := s.acc.drop (totalFrameSize (be16 (byteAt s.acc 1) (byteAt s.acc 2)))
                                    out := s.out ++ [f] } ∧ f.wf = true

/-- R90: FR_DISCARD consumes the block and reports nothing. -/
def Obligations.DiscardTransition : Prop :=
  ∀ (s : State) (e : Error), s.fsm = .scan → 5 ≤ s.acc.length → byteAt s.acc 0 = 0x7E →
    totalFrameSize (be16 (byteAt s.acc 1) (byteAt s.acc 2)) ≤ s.acc.length →
    deserializeBytes (s.acc.take (totalFrameSize (be16 (byteAt s.acc 1) (byteAt s.acc 2)))) = .error e →
    exec .frDiscard s = .next { s with acc := s.acc.drop (totalFrameSize (be16 (byteAt s.acc 1) (byteAt s.acc 2))) }

/-- R95, R96: FR_COMPACT idles the framer, changes no content, and returns the frames of the cycle. (Of `out` afterwards, log 16,
nothing is said.) -/
def Obligations.CompactTransition : Prop :=
  ∀ s : State, s.fsm = .finish →
    ∃ o, exec .frCompact s =
      .next { s with fsm := .idle, out := o, results := s.results ++ [.frames s.out]
                     cap := if s.params.compactThreshold < s.cap then s.acc.length else s.cap }

/-- R59, R81: each transition is enabled exactly under its row's condition; exactly one is enabled; on admitted events it is the one
the framer selects; and each leads to the control state, and ends the cycle with the result, that R81 gives. (R59's row of
FR_LINK_DATA names every Data event; a chunk out of range is refused there by R83 and is not selected: LinkDataSelected.) -/
def Obligations.ExactlyOneTransition : Prop :=
  (∀ (τ : Transition) (s : State), (∃ t, exec τ.instr s = .next t) ↔
    match τ with
    | .linkData => s.fsm = .idle ∧ ∃ c rest, s.link = .data c :: rest
    | .linkClosed => s.fsm = .idle ∧ ∃ rest, s.link = .empty :: rest ∨ s.link = .closed :: rest
    | .linkError => s.fsm = .idle ∧ ∃ cause rest, s.link = .error cause :: rest
    | .short => s.fsm = .scan ∧ s.acc.length < 5
    | .drop => s.fsm = .scan ∧ 5 ≤ s.acc.length ∧ byteAt s.acc 0 ≠ 0x7E
    | .wait => s.fsm = .scan ∧ 5 ≤ s.acc.length ∧ byteAt s.acc 0 = 0x7E ∧ s.acc.length < s.blockSize
    | .emit => s.fsm = .scan ∧ 5 ≤ s.acc.length ∧ byteAt s.acc 0 = 0x7E ∧ s.blockSize ≤ s.acc.length ∧
        ∃ f, deserializeBytes (s.acc.take s.blockSize) = .ok f
    | .discard => s.fsm = .scan ∧ 5 ≤ s.acc.length ∧ byteAt s.acc 0 = 0x7E ∧ s.blockSize ≤ s.acc.length ∧
        ∃ e, deserializeBytes (s.acc.take s.blockSize) = .error e
    | .compact => s.fsm = .finish) ∧
  (∀ s : State, (s.fsm = .idle → s.link ≠ []) →
    ∃ τ : Transition, (∃ t, exec τ.instr s = .next t) ∧ ∀ τ' : Transition, (∃ t, exec τ'.instr s = .next t) → τ' = τ) ∧
  (∀ (τ : Transition) (s : State),
    (s.fsm = .idle → ∀ ev rest, s.link = ev :: rest → ev.wf s.params.readSize = true) →
    (selectTransition s = some τ ↔ ∃ t, exec τ.instr s = .next t)) ∧
  (∀ (τ : Transition) (s t : State), exec τ.instr s = .next t →
    (∀ ev rest, s.link = ev :: rest → ev.wf s.params.readSize = true) →
    (s.fsm, τ, t.fsm) ∈ [(.idle, .linkData, .scan), (.idle, .linkClosed, .idle), (.idle, .linkError, .idle),
      (.scan, .drop, .scan), (.scan, .emit, .scan), (.scan, .discard, .scan), (.scan, .short, .finish),
      (.scan, .wait, .finish), (.finish, .compact, .idle)] ∧
    ∃ ended, t.results = s.results ++ ended ∧
      match τ with
      | .linkClosed => ended = [.err .linkClosed]
      | .linkError => ∃ cause rest, s.link = .error cause :: rest ∧ ended = [.err (.linkReadError cause)]
      | .compact => ended = [.frames s.out]
      | .linkData | .short | .drop | .wait | .emit | .discard => ended = [])

/-- R92: inside the framer Deserialize fails only as FrameTooShort, for length 0, or ChecksumInvalid; FR_EMIT is selected
exactly for a checksum-valid block of length 1 or more. -/
def Obligations.FramerDecodeFailures : Prop :=
  (∀ blk : Bytes, byteAt blk 0 = 0x7E → blk.length = totalFrameSize (lenField blk) →
    (∀ e, deserializeBytes blk = .error e → e = .frameTooShort ∨ e = .checksumInvalid) ∧
    (deserializeBytes blk = .error .frameTooShort ↔ (lenField blk).toNat = 0) ∧
    (deserializeBytes blk = .error .checksumInvalid ↔ 1 ≤ (lenField blk).toNat ∧ sum8 (blk.drop 3) ≠ 0xFF)) ∧
  (∀ s : State, s.fsm = .scan → 5 ≤ s.acc.length → byteAt s.acc 0 = 0x7E → s.blockSize ≤ s.acc.length →
    ((∃ t, exec .frEmit s = .next t) ↔ 1 ≤ s.lenField.toNat ∧ checksumValid s.block = true))

/-! ### READ_CYCLE -/

/-- R82, R98: READ_CYCLE takes one event. Data: the accumulator and the frames become Extract of the accumulator with the chunk
behind it, and the frames are the result. Empty and Closed: LinkClosed. Error: LinkReadError. Extract is the loop's recursion.
(That `cap` holds the accumulator is R23's bound, log 2.) -/
def Obligations.ReadCycleIsExtract : Prop :=
  decodeCommand ⟨0b001, .none⟩ = .ok .readCycle ∧
  (∀ x : Bytes, extract x =
    if x.length < 5 then (x, [])
    else if byteAt x 0 ≠ 0x7E then extract (x.drop 1)
    else if x.length < totalFrameSize (be16 (byteAt x 1) (byteAt x 2)) then (x, [])
    else match deserializeBytes (x.take (totalFrameSize (be16 (byteAt x 1) (byteAt x 2)))) with
      | .ok f => ((extract (x.drop (totalFrameSize (be16 (byteAt x 1) (byteAt x 2))))).1,
          f :: (extract (x.drop (totalFrameSize (be16 (byteAt x 1) (byteAt x 2))))).2)
      | .error _ => extract (x.drop (totalFrameSize (be16 (byteAt x 1) (byteAt x 2))))) ∧
  (∀ (s : State) (c : Bytes) (rest : List LinkEvent), s.fsm = .idle → s.waiting = false → s.link = .data c :: rest →
    1 ≤ c.length → c.length ≤ s.params.readSize →
    ∃ t, exec .readCycle s = .next t ∧ t.acc = (extract (s.acc ++ c)).1 ∧
      t.results = s.results ++ [.frames (extract (s.acc ++ c)).2] ∧ t.link = rest ∧ t.fsm = .idle ∧
      t.waiting = false ∧ t.refused = s.refused ∧ t.params = s.params ∧ t.commands = s.commands ∧ t.acc.length ≤ t.cap) ∧
  (∀ (s : State) (rest : List LinkEvent), s.fsm = .idle → s.waiting = false →
    s.link = .empty :: rest ∨ s.link = .closed :: rest →
    exec .readCycle s = .next { s with link := rest, results := s.results ++ [.err .linkClosed] }) ∧
  (∀ (s : State) (cause : Cause) (rest : List LinkEvent), s.fsm = .idle → s.waiting = false →
    s.link = .error cause :: rest →
    exec .readCycle s = .next { s with link := rest, results := s.results ++ [.err (.linkReadError cause)] })

/-- R18: nothing is left that the loop could act on: not after reset, not after a read cycle; and what is quiescent extracts
nothing. -/
def Obligations.QuiescenceBetweenOperations : Prop :=
  Quiescent State.reset.acc ∧
  (∀ s t, Quiescent s.acc → exec .readCycle s = .next t → Quiescent t.acc) ∧
  (∀ x : Bytes, Quiescent x → extract x = (x, []))

/-- R17: after reset and at the end of every read cycle at most 65538 bytes are held; after the append at most READ_SIZE more, and
the loop's transitions never add to them. -/
def Obligations.AccumulatorBounds : Prop :=
  State.reset.acc.length ≤ 65538 ∧
  (∀ s t, s.acc.length ≤ 65538 → exec .readCycle s = .next t → t.acc.length ≤ 65538) ∧
  (∀ s t, s.acc.length ≤ 65538 → exec .frLinkData s = .next t → t.acc.length ≤ 65538 + s.params.readSize) ∧
  (∀ (τ : Transition) (s t : State), s.fsm ≠ .idle → exec τ.instr s = .next t → t.acc.length ≤ s.acc.length) ∧
  (∀ x : Bytes, (extract x).1.length ≤ 65538)

/-- A READ_CYCLE blocks while the link has no event: nothing changes but that it waits, and the step leaves it so (log 7). -/
def Obligations.ReadCycleWaitsForTheLink : Prop :=
  (∀ s : State, s.fsm = .idle → s.waiting = false → s.link = [] →
    exec .readCycle s = .next { s with waiting := true }) ∧
  (∀ s : State, s.fsm = .idle → s.waiting = true → s.link = [] → s.commands = [] → step s = .next s)

/-- R93: a drop, an emit and a discard each remove a byte or more; FR_SHORT and FR_WAIT end the loop; a read cycle makes at most as
many iterations as bytes are held after the append; and no instruction ever ends in a fault. -/
def Obligations.ReadCycleTerminates : Prop :=
  (∀ s t, exec .frDrop s = .next t ∨ exec .frEmit s = .next t ∨ exec .frDiscard s = .next t →
    t.acc.length < s.acc.length) ∧
  (∀ s t, exec .frShort s = .next t ∨ exec .frWait s = .next t → t.fsm = .finish) ∧
  (∀ (s : State) (c : Bytes) (rest : List LinkEvent), s.fsm = .idle → s.link = .data c :: rest →
    ((cycleTrace (cycleBound s) s).filter (fun τ => decide (τ = .drop ∨ τ = .emit ∨ τ = .discard))).length ≤
      (s.acc ++ c).length) ∧
  (∀ i s r, exec i s ≠ .fault r)

/-- R94: the result of READ_CYCLE and the accumulator it leaves depend on the accumulator and the event alone, whatever the
threshold, the capacity and the read size that admits the event. -/
def Obligations.ReadCycleDeterminedByAccAndEvent : Prop :=
  ∀ (s s' : State) (ev : LinkEvent) (rest rest' : List LinkEvent),
    s.fsm = .idle → s.waiting = false → s.link = ev :: rest → ev.wf s.params.readSize = true →
    s'.fsm = .idle → s'.waiting = false → s'.link = ev :: rest' → ev.wf s'.params.readSize = true → s.acc = s'.acc →
    ∃ t t' r, exec .readCycle s = .next t ∧ exec .readCycle s' = .next t' ∧ t.acc = t'.acc ∧
      t.results = s.results ++ [r] ∧ t'.results = s'.results ++ [r]

/-! ### The laws of the framer -/

/-- R99: the chunking lemma. -/
def Obligations.ChunkingLemma : Prop :=
  ∀ x y : Bytes, extract (x ++ y) = ((extract ((extract x).1 ++ y)).1, (extract x).2 ++ (extract ((extract x).1 ++ y)).2)

/-- R100: whatever the chunking, the read size and the events between, the cycles return the frames of Extract of the whole
stream and leave its rest; and the frames of every sequence of bytes are the same for each minimum frame length of 3 to 5. -/
def Obligations.FramesIndependentOfChunking : Prop :=
  (∀ (s : State) (evs : List LinkEvent), ReadsEvents s evs → s.acc = [] →
    ∃ t rs, core.run evs.length s = .next t ∧ t.results = s.results ++ rs ∧
      framesOf rs = (extract (streamBytes evs)).2 ∧ t.acc = (extract (streamBytes evs)).1) ∧
  (∀ (m : Nat) (x : Bytes), 3 ≤ m → m ≤ 5 → (extractWith m x.length x).2 = (extract x).2)

/-- R101: noise without a start delimiter, then a frame: exactly that frame, whatever the chunking. -/
def Obligations.ResyncFindsTheFrame : Prop :=
  ∀ (noise body : Bytes) (s : State) (evs : List LinkEvent), (∀ b ∈ noise, b ≠ 0x7E) →
    1 ≤ body.length → body.length ≤ 65535 → streamBytes evs = noise ++ serializeBody body → ReadsEvents s evs → s.acc = [] →
    ∃ t rs, core.run evs.length s = .next t ∧ t.results = s.results ++ rs ∧ framesOf rs = [makeFrame body] ∧ t.acc = []

/-- R102: a frame delivered in parts: no frame from a cycle that ends before the last byte, that one frame from the cycle that
delivers it. -/
def Obligations.PartialDelivery : Prop :=
  ∀ (body p c y : Bytes) (s : State) (rest : List LinkEvent), 1 ≤ body.length → body.length ≤ 65535 →
    p ++ c ++ y = serializeBody body → s.fsm = .idle → s.waiting = false → s.acc = p → s.link = .data c :: rest →
    1 ≤ c.length → c.length ≤ s.params.readSize →
    ∃ t, exec .readCycle s = .next t ∧
      (y ≠ [] → t.acc = p ++ c ∧ t.results = s.results ++ [.frames []]) ∧
      (y = [] → t.acc = [] ∧ t.results = s.results ++ [.frames [makeFrame body]])

/-- R103: two frames end to end yield the two, in order: in one cycle if they fit, else over the cycles that deliver them. -/
def Obligations.ConcatenatedFrames : Prop :=
  ∀ (a b : Bytes) (s : State), 1 ≤ a.length → a.length ≤ 65535 → 1 ≤ b.length → b.length ≤ 65535 → s.acc = [] →
    (∀ rest, s.fsm = .idle → s.waiting = false → s.link = .data (serializeBody a ++ serializeBody b) :: rest →
      (serializeBody a ++ serializeBody b).length ≤ s.params.readSize →
      ∃ t, exec .readCycle s = .next t ∧ t.acc = [] ∧
        t.results = s.results ++ [.frames [makeFrame a, makeFrame b]]) ∧
    (∀ evs, ReadsEvents s evs → streamBytes evs = serializeBody a ++ serializeBody b →
      ∃ t rs, core.run evs.length s = .next t ∧ t.acc = [] ∧ t.results = s.results ++ rs ∧
        framesOf rs = [makeFrame a, makeFrame b])

/-- R91, R104: after any bytes that leave no start delimiter buffered, a frame is emitted; bytes without a delimiter leave none;
and a block that does not decode is lost whole, at most 65539 bytes, scanning resuming after it. -/
def Obligations.RecoveryAfterCorruption : Prop :=
  (∀ g body : Bytes, 1 ≤ body.length → body.length ≤ 65535 → (∀ b ∈ (extract g).1, b ≠ 0x7E) →
    extract (g ++ serializeBody body) = ([], (extract g).2 ++ [makeFrame body])) ∧
  (∀ g : Bytes, (∀ b ∈ g, b ≠ 0x7E) → ∀ b ∈ (extract g).1, b ≠ 0x7E) ∧
  (∀ (blk y : Bytes) (e : Error), byteAt blk 0 = 0x7E → blk.length = totalFrameSize (lenField blk) →
    deserializeBytes blk = .error e → 5 ≤ (blk ++ y).length → extract (blk ++ y) = extract y ∧ blk.length ≤ 65539)

/-- A start delimiter at the head whose block is not complete holds back every byte behind it, complete frames among them. -/
def Obligations.FalseStartStalls : Prop :=
  ∀ x y : Bytes, 3 ≤ x.length → byteAt x 0 = 0x7E → (x ++ y).length < totalFrameSize (lenField x) →
    extract (x ++ y) = (x ++ y, []) ∧ (x ++ y).length < 65539

/-- R41: the frames returned over all the cycles stand in the stream one after another, in the order they are returned, with the
bytes dropped between them; what is left is at the end. -/
def Obligations.FramesInStreamOrder : Prop :=
  ∀ (s : State) (evs : List LinkEvent), ReadsEvents s evs → s.acc = [] →
    ∃ t rs segs tail, core.run evs.length s = .next t ∧ t.results = s.results ++ rs ∧
      segs.map Prod.snd = framesOf rs ∧ streamBytes evs = layOut segs tail ∧ t.acc <:+ tail

/-! ### The state as a whole -/

/-- R17, R18, R21, R23: every step keeps the invariant, so the accumulator never exceeds its depth. -/
def Obligations.StepKeepsTheInvariant : Prop :=
  ∀ s t : State, s.Inv → step s = .next t → t.Inv

/-- The invariant holds after reset. -/
def Obligations.ResetMeetsTheInvariant : Prop := State.reset.Inv

/-- R25: a codec command changes nothing but the list of results or the mark, and what it answers depends on its operands
alone. -/
def Obligations.CodecCommandsArePure : Prop :=
  ∀ i : Instr, (∃ b, i = .checksum b) ∨ (∃ n, i = .frameSize n) ∨ (∃ b, i = .serialize b) ∨ (∃ b, i = .deserialize b) →
    (∃ r, ∀ s, exec i s = .next { s with results := s.results ++ [r] }) ∨
    (∀ s, exec i s = .next { s with refused := true })

/-- R16: the accumulator is changed only by an append at the back, by drops from the front, and by RESET; a command other than
READ_CYCLE and RESET neither writes nor reads it. -/
def Obligations.AccumulatorChanges : Prop :=
  ∀ i s t, exec i s = .next t →
    (i = .reset → t.acc = []) ∧
    (i ≠ .reset → ∃ c n, t.acc = (s.acc ++ c).drop n ∧
      (c = [] ∨ ((i = .readCycle ∨ i = .frLinkData) ∧ ∃ rest, s.link = .data c :: rest))) ∧
    ((∃ cmd, encodeCommand i = some cmd) → i ≠ .reset → i ≠ .readCycle →
      t.acc = s.acc ∧ ∀ a, exec i { s with acc := a } = .next { t with acc := a })

/-- R58: every admitted command returns exactly one result, of its form. -/
def Obligations.OneResultEach : Prop :=
  ∀ (i : Instr) (s : State), (∃ c, encodeCommand i = some c) → i.wf = true → s.fsm = .idle → s.waiting = false →
    (i = .readCycle → ∃ ev rest, s.link = ev :: rest ∧ ev.wf s.params.readSize = true) →
    ∃ t r, exec i s = .next t ∧ t.results = s.results ++ [r] ∧
      (i = .reset → r = .done) ∧
      (i = .readCycle → (∃ out, r = .frames out) ∨ ∃ e, r = .err e) ∧
      (∀ body, i = .serialize body → ∃ w, r = .bytes w) ∧
      (∀ b, i = .deserialize b → (∃ f, r = .frame f) ∨ ∃ e, r = .err e) ∧
      (∀ b, i = .checksum b → ∃ c, r = .checksum c) ∧
      (∀ n, i = .frameSize n → ∃ v : BitVec 17, r = .size v ∧ 4 ≤ v.toNat ∧ v.toNat ≤ 65539)

/-- R106: the status codes, and which commands raise them. -/
def Obligations.StatusCodes : Prop :=
  (errorStatus .frameTooShort = 1 ∧ errorStatus .invalidStartDelimiter = 2 ∧ errorStatus .checksumInvalid = 3 ∧
    errorStatus .lengthMismatch = 4 ∧ (∀ cause, errorStatus (.linkReadError cause) = 5) ∧ errorStatus .linkClosed = 6) ∧
  (∀ r : Result, (resultStatus r).toNat ≤ 6 ∧ (resultStatus r = 0 ↔ ∀ e, r ≠ .err e)) ∧
  (∀ i s t e, exec i s = .next t → t.results = s.results ++ [.err e] →
    ((errorStatus e).toNat ≤ 4 → ∃ b, i = .deserialize b) ∧
    (5 ≤ (errorStatus e).toNat → i = .readCycle ∨ i = .frLinkClosed ∨ i = .frLinkError))

/-- R61: FEED splits its bytes, in order, into chunks of READ_SIZE bytes, the last one shorter if need be, one READ line each. -/
def Obligations.FeedSplitsIntoChunks : Prop :=
  ∀ (n : Nat) (b : Bytes), 1 ≤ n →
    ∃ cs : List Bytes, expandLine n (.feed b) = cs.map .readData ∧ cs.flatten = b ∧
      (∀ c ∈ cs, 1 ≤ c.length ∧ c.length ≤ n) ∧
      (∀ k, k + 1 < cs.length → ∃ c, cs[k]? = some c ∧ c.length = n) ∧
      (b = [] → expandLine n (.feed b) = [])

/-- R83: FR_LINK_DATA is selected exactly for an idle framer with a chunk of 1 to READ_SIZE bytes, and writes what R83 says; the
READ_CYCLE of any other chunk selects no transition, performs none and is refused. -/
def Obligations.LinkDataSelected : Prop :=
  (∀ s : State, selectTransition s = some .linkData ↔ s.fsm = .idle ∧
    ∃ c rest, s.link = .data c :: rest ∧ 1 ≤ c.length ∧ c.length ≤ s.params.readSize) ∧
  (∀ (s : State) (c : Bytes) (rest : List LinkEvent), selectTransition s = some .linkData → s.link = .data c :: rest →
    ∃ t, exec .frLinkData s = .next t ∧ t.acc = s.acc ++ c ∧ t.out = [] ∧ t.fsm = .scan ∧ t.results = s.results ∧
      t.refused = s.refused ∧ (s.acc.length ≤ 65538 → t.acc.length ≤ 65538 + s.params.readSize)) ∧
  (∀ (s : State) (c : Bytes) (rest : List LinkEvent), s.fsm = .idle → s.waiting = false → s.link = .data c :: rest →
    c.length = 0 ∨ s.params.readSize < c.length →
    selectTransition s = none ∧ (∀ n, cycleTrace n s = []) ∧
    ∃ t, exec .readCycle s = .next t ∧ t.refused = true ∧ t.acc = s.acc ∧ t.fsm = .idle ∧ t.results = s.results)
end

