-- ==== Sys2Proof/Laws/State.lean ====
section
/-! SUPPORT. One lemma for each field of the state under each named update of Machine/Ops.lean, true by rfl, so that no later
proof unfolds a record update. -/

namespace Sys2Proof.Machine

variable (s : State)

@[simp] theorem respond_acc (r : Result) : (respond r s).acc = s.acc := rfl
@[simp] theorem respond_fsm (r : Result) : (respond r s).fsm = s.fsm := rfl
@[simp] theorem respond_out (r : Result) : (respond r s).out = s.out := rfl
@[simp] theorem respond_scratch (r : Result) : (respond r s).scratch = s.scratch := rfl
@[simp] theorem respond_cap (r : Result) : (respond r s).cap = s.cap := rfl
@[simp] theorem respond_refused (r : Result) : (respond r s).refused = s.refused := rfl
@[simp] theorem respond_params (r : Result) : (respond r s).params = s.params := rfl
@[simp] theorem respond_commands (r : Result) : (respond r s).commands = s.commands := rfl
@[simp] theorem respond_link (r : Result) : (respond r s).link = s.link := rfl
@[simp] theorem respond_waiting (r : Result) : (respond r s).waiting = s.waiting := rfl
@[simp] theorem respond_results (r : Result) : (respond r s).results = s.results ++ [r] := rfl
@[simp] theorem respond_draws (r : Result) : (respond r s).draws = s.draws := rfl

@[simp] theorem refuse_acc : (refuse s).acc = s.acc := rfl
@[simp] theorem refuse_fsm : (refuse s).fsm = s.fsm := rfl
@[simp] theorem refuse_out : (refuse s).out = s.out := rfl
@[simp] theorem refuse_scratch : (refuse s).scratch = s.scratch := rfl
@[simp] theorem refuse_cap : (refuse s).cap = s.cap := rfl
@[simp] theorem refuse_refused : (refuse s).refused = true := rfl
@[simp] theorem refuse_params : (refuse s).params = s.params := rfl
@[simp] theorem refuse_commands : (refuse s).commands = s.commands := rfl
@[simp] theorem refuse_link : (refuse s).link = s.link := rfl
@[simp] theorem refuse_waiting : (refuse s).waiting = s.waiting := rfl
@[simp] theorem refuse_results : (refuse s).results = s.results := rfl
@[simp] theorem refuse_draws : (refuse s).draws = s.draws := rfl

@[simp] theorem accAppend_acc (c : Bytes) : (accAppend c s).acc = s.acc ++ c := rfl
@[simp] theorem accAppend_fsm (c : Bytes) : (accAppend c s).fsm = s.fsm := rfl
@[simp] theorem accAppend_out (c : Bytes) : (accAppend c s).out = s.out := rfl
@[simp] theorem accAppend_scratch (c : Bytes) : (accAppend c s).scratch = s.scratch := rfl
@[simp] theorem accAppend_cap (c : Bytes) : (accAppend c s).cap = (s.acc ++ c).length + Config.freeNat s.draws := rfl
@[simp] theorem accAppend_refused (c : Bytes) : (accAppend c s).refused = s.refused := rfl
@[simp] theorem accAppend_params (c : Bytes) : (accAppend c s).params = s.params := rfl
@[simp] theorem accAppend_commands (c : Bytes) : (accAppend c s).commands = s.commands := rfl
@[simp] theorem accAppend_link (c : Bytes) : (accAppend c s).link = s.link := rfl
@[simp] theorem accAppend_waiting (c : Bytes) : (accAppend c s).waiting = s.waiting := rfl
@[simp] theorem accAppend_results (c : Bytes) : (accAppend c s).results = s.results := rfl
@[simp] theorem accAppend_draws (c : Bytes) : (accAppend c s).draws = s.draws + 1 := rfl

@[simp] theorem accDrop_acc (n : Nat) : (accDrop n s).acc = s.acc.drop n := rfl
@[simp] theorem accDrop_fsm (n : Nat) : (accDrop n s).fsm = s.fsm := rfl
@[simp] theorem accDrop_out (n : Nat) : (accDrop n s).out = s.out := rfl
@[simp] theorem accDrop_scratch (n : Nat) : (accDrop n s).scratch = s.scratch := rfl
@[simp] theorem accDrop_cap (n : Nat) : (accDrop n s).cap = s.cap := rfl
@[simp] theorem accDrop_refused (n : Nat) : (accDrop n s).refused = s.refused := rfl
@[simp] theorem accDrop_params (n : Nat) : (accDrop n s).params = s.params := rfl
@[simp] theorem accDrop_commands (n : Nat) : (accDrop n s).commands = s.commands := rfl
@[simp] theorem accDrop_link (n : Nat) : (accDrop n s).link = s.link := rfl
@[simp] theorem accDrop_waiting (n : Nat) : (accDrop n s).waiting = s.waiting := rfl
@[simp] theorem accDrop_results (n : Nat) : (accDrop n s).results = s.results := rfl
@[simp] theorem accDrop_draws (n : Nat) : (accDrop n s).draws = s.draws := rfl

@[simp] theorem fillScratch_acc (c : Bytes) : (fillScratch c s).acc = s.acc := rfl
@[simp] theorem fillScratch_fsm (c : Bytes) : (fillScratch c s).fsm = s.fsm := rfl
@[simp] theorem fillScratch_out (c : Bytes) : (fillScratch c s).out = s.out := rfl
@[simp] theorem fillScratch_scratch (c : Bytes) : (fillScratch c s).scratch = c ++ freeBytes s.draws (s.params.readSize - c.length) := rfl
@[simp] theorem fillScratch_cap (c : Bytes) : (fillScratch c s).cap = s.cap := rfl
@[simp] theorem fillScratch_refused (c : Bytes) : (fillScratch c s).refused = s.refused := rfl
@[simp] theorem fillScratch_params (c : Bytes) : (fillScratch c s).params = s.params := rfl
@[simp] theorem fillScratch_commands (c : Bytes) : (fillScratch c s).commands = s.commands := rfl
@[simp] theorem fillScratch_link (c : Bytes) : (fillScratch c s).link = s.link := rfl
@[simp] theorem fillScratch_waiting (c : Bytes) : (fillScratch c s).waiting = s.waiting := rfl
@[simp] theorem fillScratch_results (c : Bytes) : (fillScratch c s).results = s.results := rfl
@[simp] theorem fillScratch_draws (c : Bytes) : (fillScratch c s).draws = s.draws + 1 := rfl

@[simp] theorem takeEvent_acc : (takeEvent s).acc = s.acc := rfl
@[simp] theorem takeEvent_fsm : (takeEvent s).fsm = s.fsm := rfl
@[simp] theorem takeEvent_out : (takeEvent s).out = s.out := rfl
@[simp] theorem takeEvent_scratch : (takeEvent s).scratch = s.scratch := rfl
@[simp] theorem takeEvent_cap : (takeEvent s).cap = s.cap := rfl
@[simp] theorem takeEvent_refused : (takeEvent s).refused = s.refused := rfl
@[simp] theorem takeEvent_params : (takeEvent s).params = s.params := rfl
@[simp] theorem takeEvent_commands : (takeEvent s).commands = s.commands := rfl
@[simp] theorem takeEvent_link : (takeEvent s).link = s.link.tail := rfl
@[simp] theorem takeEvent_waiting : (takeEvent s).waiting = false := rfl
@[simp] theorem takeEvent_results : (takeEvent s).results = s.results := rfl
@[simp] theorem takeEvent_draws : (takeEvent s).draws = s.draws := rfl

@[simp] theorem refuseEvent_acc : (refuseEvent s).acc = s.acc := rfl
@[simp] theorem refuseEvent_fsm : (refuseEvent s).fsm = s.fsm := rfl
@[simp] theorem refuseEvent_out : (refuseEvent s).out = s.out := rfl
@[simp] theorem refuseEvent_scratch : (refuseEvent s).scratch = s.scratch := rfl
@[simp] theorem refuseEvent_cap : (refuseEvent s).cap = s.cap := rfl
@[simp] theorem refuseEvent_refused : (refuseEvent s).refused = true := rfl
@[simp] theorem refuseEvent_params : (refuseEvent s).params = s.params := rfl
@[simp] theorem refuseEvent_commands : (refuseEvent s).commands = s.commands := rfl
@[simp] theorem refuseEvent_link : (refuseEvent s).link = s.link.tail := rfl
@[simp] theorem refuseEvent_waiting : (refuseEvent s).waiting = false := rfl
@[simp] theorem refuseEvent_results : (refuseEvent s).results = s.results := rfl
@[simp] theorem refuseEvent_draws : (refuseEvent s).draws = s.draws := rfl

@[simp] theorem blockOnLink_acc : (blockOnLink s).acc = s.acc := rfl
@[simp] theorem blockOnLink_fsm : (blockOnLink s).fsm = s.fsm := rfl
@[simp] theorem blockOnLink_out : (blockOnLink s).out = s.out := rfl
@[simp] theorem blockOnLink_scratch : (blockOnLink s).scratch = s.scratch := rfl
@[simp] theorem blockOnLink_cap : (blockOnLink s).cap = s.cap := rfl
@[simp] theorem blockOnLink_refused : (blockOnLink s).refused = s.refused := rfl
@[simp] theorem blockOnLink_params : (blockOnLink s).params = s.params := rfl
@[simp] theorem blockOnLink_commands : (blockOnLink s).commands = s.commands := rfl
@[simp] theorem blockOnLink_link : (blockOnLink s).link = s.link := rfl
@[simp] theorem blockOnLink_waiting : (blockOnLink s).waiting = true := rfl
@[simp] theorem blockOnLink_results : (blockOnLink s).results = s.results := rfl
@[simp] theorem blockOnLink_draws : (blockOnLink s).draws = s.draws := rfl

@[simp] theorem setFsm_acc (f : Fsm) : (setFsm f s).acc = s.acc := rfl
@[simp] theorem setFsm_fsm (f : Fsm) : (setFsm f s).fsm = f := rfl
@[simp] theorem setFsm_out (f : Fsm) : (setFsm f s).out = s.out := rfl
@[simp] theorem setFsm_scratch (f : Fsm) : (setFsm f s).scratch = s.scratch := rfl
@[simp] theorem setFsm_cap (f : Fsm) : (setFsm f s).cap = s.cap := rfl
@[simp] theorem setFsm_refused (f : Fsm) : (setFsm f s).refused = s.refused := rfl
@[simp] theorem setFsm_params (f : Fsm) : (setFsm f s).params = s.params := rfl
@[simp] theorem setFsm_commands (f : Fsm) : (setFsm f s).commands = s.commands := rfl
@[simp] theorem setFsm_link (f : Fsm) : (setFsm f s).link = s.link := rfl
@[simp] theorem setFsm_waiting (f : Fsm) : (setFsm f s).waiting = s.waiting := rfl
@[simp] theorem setFsm_results (f : Fsm) : (setFsm f s).results = s.results := rfl
@[simp] theorem setFsm_draws (f : Fsm) : (setFsm f s).draws = s.draws := rfl

@[simp] theorem clearOut_acc : (clearOut s).acc = s.acc := rfl
@[simp] theorem clearOut_fsm : (clearOut s).fsm = s.fsm := rfl
@[simp] theorem clearOut_out : (clearOut s).out = [] := rfl
@[simp] theorem clearOut_scratch : (clearOut s).scratch = s.scratch := rfl
@[simp] theorem clearOut_cap : (clearOut s).cap = s.cap := rfl
@[simp] theorem clearOut_refused : (clearOut s).refused = s.refused := rfl
@[simp] theorem clearOut_params : (clearOut s).params = s.params := rfl
@[simp] theorem clearOut_commands : (clearOut s).commands = s.commands := rfl
@[simp] theorem clearOut_link : (clearOut s).link = s.link := rfl
@[simp] theorem clearOut_waiting : (clearOut s).waiting = s.waiting := rfl
@[simp] theorem clearOut_results : (clearOut s).results = s.results := rfl
@[simp] theorem clearOut_draws : (clearOut s).draws = s.draws := rfl

@[simp] theorem emitFrame_acc (f : Frame) : (emitFrame f s).acc = s.acc := rfl
@[simp] theorem emitFrame_fsm (f : Frame) : (emitFrame f s).fsm = s.fsm := rfl
@[simp] theorem emitFrame_out (f : Frame) : (emitFrame f s).out = s.out ++ [f] := rfl
@[simp] theorem emitFrame_scratch (f : Frame) : (emitFrame f s).scratch = s.scratch := rfl
@[simp] theorem emitFrame_cap (f : Frame) : (emitFrame f s).cap = s.cap := rfl
@[simp] theorem emitFrame_refused (f : Frame) : (emitFrame f s).refused = s.refused := rfl
@[simp] theorem emitFrame_params (f : Frame) : (emitFrame f s).params = s.params := rfl
@[simp] theorem emitFrame_commands (f : Frame) : (emitFrame f s).commands = s.commands := rfl
@[simp] theorem emitFrame_link (f : Frame) : (emitFrame f s).link = s.link := rfl
@[simp] theorem emitFrame_waiting (f : Frame) : (emitFrame f s).waiting = s.waiting := rfl
@[simp] theorem emitFrame_results (f : Frame) : (emitFrame f s).results = s.results := rfl
@[simp] theorem emitFrame_draws (f : Frame) : (emitFrame f s).draws = s.draws := rfl

@[simp] theorem compactStorage_acc : (compactStorage s).acc = s.acc := rfl
@[simp] theorem compactStorage_fsm : (compactStorage s).fsm = s.fsm := rfl
@[simp] theorem compactStorage_out : (compactStorage s).out = s.out := rfl
@[simp] theorem compactStorage_scratch : (compactStorage s).scratch = s.scratch := rfl
@[simp] theorem compactStorage_cap : (compactStorage s).cap = compactedCap s.params.compactThreshold s.cap s.acc.length := rfl
@[simp] theorem compactStorage_refused : (compactStorage s).refused = s.refused := rfl
@[simp] theorem compactStorage_params : (compactStorage s).params = s.params := rfl
@[simp] theorem compactStorage_commands : (compactStorage s).commands = s.commands := rfl
@[simp] theorem compactStorage_link : (compactStorage s).link = s.link := rfl
@[simp] theorem compactStorage_waiting : (compactStorage s).waiting = s.waiting := rfl
@[simp] theorem compactStorage_results : (compactStorage s).results = s.results := rfl
@[simp] theorem compactStorage_draws : (compactStorage s).draws = s.draws := rfl

@[simp] theorem clearFramer_acc : (clearFramer s).acc = [] := rfl
@[simp] theorem clearFramer_fsm : (clearFramer s).fsm = .idle := rfl
@[simp] theorem clearFramer_out : (clearFramer s).out = [] := rfl
@[simp] theorem clearFramer_scratch : (clearFramer s).scratch = freeBytes s.draws s.params.readSize := rfl
@[simp] theorem clearFramer_cap : (clearFramer s).cap = Config.freeNat s.draws := rfl
@[simp] theorem clearFramer_refused : (clearFramer s).refused = s.refused := rfl
@[simp] theorem clearFramer_params : (clearFramer s).params = s.params := rfl
@[simp] theorem clearFramer_commands : (clearFramer s).commands = s.commands := rfl
@[simp] theorem clearFramer_link : (clearFramer s).link = s.link := rfl
@[simp] theorem clearFramer_waiting : (clearFramer s).waiting = s.waiting := rfl
@[simp] theorem clearFramer_results : (clearFramer s).results = s.results := rfl
@[simp] theorem clearFramer_draws : (clearFramer s).draws = s.draws + 1 := rfl

end Sys2Proof.Machine
end

