-- ==== Sys2Proof/Laws/Wire.lean ====
section
/-! SUPPORT. The pure functions of the wire format: sums, byte order, what a successful Deserialize says, and the equations of
Extract. -/

namespace Sys2Proof

/-! ### Sums and byte order -/

theorem sumNat_append (a b : Bytes) : sumNat (a ++ b) = sumNat a + sumNat b := by
  induction a with
  | nil => simp [sumNat]
  | cons x xs ih => simp only [List.cons_append, sumNat, ih]; omega

/-- The sum as core's list sum. -/
theorem sumNat_eq_sum (b : Bytes) : sumNat b = (b.map BitVec.toNat).sum := by
  induction b with
  | nil => rfl
  | cons x xs ih => simp [sumNat, ih]

theorem sum8_toNat (b : Bytes) : (sum8 b).toNat = sumNat b % 256 := by
  simp [sum8]

theorem sum8_eq_iff (a b : Bytes) : sum8 a = sum8 b ↔ sumNat a % 256 = sumNat b % 256 := by
  rw [← BitVec.toNat_inj, sum8_toNat, sum8_toNat]

theorem sum8_eq_ff_iff (b : Bytes) : sum8 b = 0xFF ↔ sumNat b % 256 = 255 := by
  rw [← BitVec.toNat_inj, sum8_toNat]; rfl

theorem checksumOf_toNat (b : Bytes) : (checksumOf b).toNat = 255 - sumNat b % 256 := by
  have := sum8_toNat b
  have hlt : sumNat b % 256 < 256 := Nat.mod_lt _ (by decide)
  have hff : (0xFF : Byte).toNat = 255 := rfl
  simp only [checksumOf, BitVec.toNat_sub, this, hff]
  omega

theorem lenField_toNat (b : Bytes) : (lenField b).toNat = (byteAt b 1).toNat * 256 + (byteAt b 2).toNat := by
  have h1 := (byteAt b 1).isLt
  have h2 := (byteAt b 2).isLt
  simp only [lenField, be16, BitVec.toNat_ofNat]
  omega

theorem be16_hi8_lo8 (v : U16) : be16 (hi8 v) (lo8 v) = v := by
  have := v.isLt
  apply BitVec.eq_of_toNat_eq
  simp only [be16, hi8, lo8, BitVec.toNat_ofNat]
  omega

theorem hi8_be16 (a b : Byte) : hi8 (be16 a b) = a := by
  have := a.isLt
  have := b.isLt
  apply BitVec.eq_of_toNat_eq
  simp only [be16, hi8, BitVec.toNat_ofNat]
  omega

theorem lo8_be16 (a b : Byte) : lo8 (be16 a b) = b := by
  have := a.isLt
  have := b.isLt
  apply BitVec.eq_of_toNat_eq
  simp only [be16, lo8, BitVec.toNat_ofNat]
  omega

/-! ### Frames -/

theorem isFrameBuffer_iff (b : Bytes) : isFrameBuffer b = true ↔ 1 ≤ b.length ∧ b.length ≤ 65535 := by
  rw [isFrameBuffer, Bool.and_eq_true, decide_eq_true_iff, decide_eq_true_iff, maxBody]

theorem frame_wf_iff (f : Frame) :
    f.wf = true ↔ f.length.toNat = f.body.length ∧ 1 ≤ f.body.length ∧ f.body.length ≤ 65535 ∧
      f.checksum = checksumOf f.body := by
  simp only [Frame.wf, Bool.and_eq_true, decide_eq_true_eq, isFrameBuffer_iff, and_assoc]

theorem serializeFrame_length (f : Frame) : (serializeFrame f).length = f.body.length + 4 := by
  simp [serializeFrame]

theorem serializeFrame_byteAt_zero (f : Frame) : byteAt (serializeFrame f) 0 = startDelim := rfl

theorem lenField_serializeFrame (f : Frame) (y : Bytes) : lenField (serializeFrame f ++ y) = f.length := by
  simp [lenField, serializeFrame, byteAt, be16_hi8_lo8]

theorem byteAt_append_left (x y : Bytes) {i : Nat} (h : i < x.length) : byteAt (x ++ y) i = byteAt x i := by
  simp [byteAt, List.getD_eq_getElem?_getD, List.getElem?_append_left h]

/-- The length field of a sequence of at least three bytes is that of every extension of it. -/
theorem lenField_append (x y : Bytes) (h : 3 ≤ x.length) : lenField (x ++ y) = lenField x := by
  simp only [lenField, byteAt_append_left x y (show 1 < x.length by omega), byteAt_append_left x y (show 2 < x.length by omega)]

/-- The bytes from index 3 on are the body and the last byte. -/
theorem drop_three_eq (b : Bytes) (h : 5 ≤ b.length) :
    b.drop 3 = (b.drop 3).take (b.length - 4) ++ [byteAt b (b.length - 1)] := by
  have h2 : (b.drop 3).drop (b.length - 4) = [byteAt b (b.length - 1)] := by
    rw [List.drop_drop, show 3 + (b.length - 4) = b.length - 1 by omega, List.drop_eq_getElem_cons (by omega),
      List.drop_eq_nil_of_le (by omega)]
    simp [byteAt, List.getD_eq_getElem?_getD, List.getElem?_eq_getElem (show b.length - 1 < b.length by omega)]
  conv_lhs => rw [← List.take_append_drop (b.length - 4) (b.drop 3), h2]

/-! ### Deserialize -/

/-- What Deserialize does, said once: the first failing check in step order, else the frame read (R69, R70). Step 6 is in it. -/
theorem deserializeBytes_cases (b : Bytes) :
    (b.length < 5 ∧ deserializeBytes b = .error .frameTooShort) ∨
    (5 ≤ b.length ∧ byteAt b 0 ≠ startDelim ∧ deserializeBytes b = .error .invalidStartDelimiter) ∨
    (5 ≤ b.length ∧ byteAt b 0 = startDelim ∧ sum8 (b.drop 3) ≠ 0xFF ∧ deserializeBytes b = .error .checksumInvalid) ∨
    (5 ≤ b.length ∧ byteAt b 0 = startDelim ∧ sum8 (b.drop 3) = 0xFF ∧ (lenField b).toNat ≠ b.length - 4 ∧
      deserializeBytes b = .error .lengthMismatch) ∨
    (5 ≤ b.length ∧ byteAt b 0 = startDelim ∧ sum8 (b.drop 3) = 0xFF ∧ (lenField b).toNat = b.length - 4 ∧
      checksumOf ((b.drop 3).take (lenField b).toNat) ≠ byteAt b (b.length - 1) ∧
      deserializeBytes b = .error .checksumInvalid) ∨
    (5 ≤ b.length ∧ byteAt b 0 = startDelim ∧ sum8 (b.drop 3) = 0xFF ∧ (lenField b).toNat = b.length - 4 ∧
      checksumOf ((b.drop 3).take (lenField b).toNat) = byteAt b (b.length - 1) ∧
      deserializeBytes b = .ok ⟨lenField b, (b.drop 3).take (lenField b).toNat, byteAt b (b.length - 1)⟩) := by
  unfold deserializeBytes minDeserLen
  split_ifs <;> simp_all

/-- What a successful Deserialize says of its operand and of the frame (R69). -/
theorem deserializeBytes_ok {b : Bytes} {f : Frame} (h : deserializeBytes b = .ok f) :
    5 ≤ b.length ∧ byteAt b 0 = startDelim ∧ sum8 (b.drop 3) = 0xFF ∧ (lenField b).toNat = b.length - 4 ∧
      checksumOf ((b.drop 3).take (lenField b).toNat) = byteAt b (b.length - 1) ∧
      f = ⟨lenField b, (b.drop 3).take (lenField b).toNat, byteAt b (b.length - 1)⟩ := by
  obtain ⟨_, e⟩ | ⟨_, _, e⟩ | ⟨_, _, _, e⟩ | ⟨_, _, _, _, e⟩ | ⟨_, _, _, _, _, e⟩ | ⟨h1, h2, h3, h4, h5, e⟩ :=
    deserializeBytes_cases b <;> rw [e] at h
  iterate 5 exact absurd h (by simp)
  exact ⟨h1, h2, h3, h4, h5, (Except.ok.inj h).symm⟩

/-! ### Extract -/

/-- The equation of the extraction loop while it has iterations left (R98). -/
theorem extractWith_succ (m n : Nat) (x : Bytes) :
    extractWith m (n + 1) x =
      if x.length < m then (x, [])
      else if byteAt x 0 ≠ startDelim then extractWith m n (x.drop 1)
      else if x.length < totalFrameSize (lenField x) then (x, [])
      else match deserializeBytes (x.take (totalFrameSize (lenField x))) with
        | .ok f => ((extractWith m n (x.drop (totalFrameSize (lenField x)))).1,
            f :: (extractWith m n (x.drop (totalFrameSize (lenField x)))).2)
        | .error _ => extractWith m n (x.drop (totalFrameSize (lenField x))) := by
  rfl

theorem extractWith_nil (m n : Nat) (h : 1 ≤ m) : extractWith m n [] = ([], []) := by
  cases n with
  | zero => rfl
  | succ n => rw [extractWith_succ, if_pos (by simpa [Nat.pos_iff_ne_zero] using Nat.pos_iff_ne_zero.mp h)]

/-- The bound on the iterations plays no part once it reaches the sequence's length: each iteration removes a byte (R93). -/
theorem extractWith_enough (m : Nat) (hm : 1 ≤ m) (n : Nat) :
    ∀ (k : Nat) (x : Bytes), x.length ≤ n → x.length ≤ k → extractWith m n x = extractWith m k x := by
  induction n with
  | zero =>
    intro k x hx _
    obtain rfl := List.eq_nil_of_length_eq_zero (Nat.le_zero.mp hx)
    rw [extractWith_nil m 0 hm, extractWith_nil m k hm]
  | succ n ih =>
    intro k x hn hk
    cases k with
    | zero =>
      obtain rfl := List.eq_nil_of_length_eq_zero (Nat.le_zero.mp hk)
      rw [extractWith_nil m (n + 1) hm, extractWith_nil m 0 hm]
    | succ k =>
      rw [extractWith_succ, extractWith_succ]
      split_ifs with h1 h2 h3
      · rfl
      · exact ih k _ (by simp; omega) (by simp; omega)
      · rfl
      · have hT : 4 ≤ totalFrameSize (lenField x) := by unfold totalFrameSize; omega
        have := ih k (x.drop (totalFrameSize (lenField x))) (by simp; omega) (by simp; omega)
        rw [this]

theorem extract_eq_with {n : Nat} {x : Bytes} (h : x.length ≤ n) : extractWith minFrameLen n x = extract x :=
  extractWith_enough minFrameLen (by decide) n x.length x h (Nat.le_refl _)

theorem extract_short {x : Bytes} (h : x.length < minFrameLen) : extract x = (x, []) := by
  rw [← extract_eq_with (Nat.le_succ x.length), extractWith_succ, if_pos h]

theorem extract_drop {x : Bytes} (h : minFrameLen ≤ x.length) (h0 : byteAt x 0 ≠ startDelim) :
    extract x = extract (x.drop 1) := by
  rw [← extract_eq_with (Nat.le_succ x.length), extractWith_succ, if_neg (by omega), if_pos h0]
  exact extract_eq_with (by simp)

theorem extract_wait {x : Bytes} (h : minFrameLen ≤ x.length) (h0 : byteAt x 0 = startDelim)
    (hT : x.length < totalFrameSize (lenField x)) : extract x = (x, []) := by
  rw [← extract_eq_with (Nat.le_succ x.length), extractWith_succ, if_neg (by omega), if_neg (by simpa using h0), if_pos hT]

theorem extract_emit {x : Bytes} {f : Frame} (h : minFrameLen ≤ x.length) (h0 : byteAt x 0 = startDelim)
    (hT : totalFrameSize (lenField x) ≤ x.length)
    (hf : deserializeBytes (x.take (totalFrameSize (lenField x))) = .ok f) :
    extract x = ((extract (x.drop (totalFrameSize (lenField x)))).1,
      f :: (extract (x.drop (totalFrameSize (lenField x)))).2) := by
  rw [← extract_eq_with (Nat.le_succ x.length), extractWith_succ, if_neg (by omega), if_neg (by simpa using h0),
    if_neg (by omega), hf]
  simp only [extract_eq_with (show (x.drop (totalFrameSize (lenField x))).length ≤ x.length by simp)]

theorem extract_discard {x : Bytes} {e : Error} (h : minFrameLen ≤ x.length) (h0 : byteAt x 0 = startDelim)
    (hT : totalFrameSize (lenField x) ≤ x.length)
    (hf : deserializeBytes (x.take (totalFrameSize (lenField x))) = .error e) :
    extract x = extract (x.drop (totalFrameSize (lenField x))) := by
  rw [← extract_eq_with (Nat.le_succ x.length), extractWith_succ, if_neg (by omega), if_neg (by simpa using h0),
    if_neg (by omega), hf]
  exact extract_eq_with (by simp)

/-- An induction over the decisions of Extract: a property holds of every sequence if it holds of the sequences the loop stops
on, and passes from what is left to the sequence, for a byte dropped, a block that decodes and a block that does not. -/
theorem extract_induction {P : Bytes → Prop}
    (short : ∀ x, x.length < minFrameLen → P x)
    (drop : ∀ x, minFrameLen ≤ x.length → byteAt x 0 ≠ startDelim → P (x.drop 1) → P x)
    (wait : ∀ x, minFrameLen ≤ x.length → byteAt x 0 = startDelim → x.length < totalFrameSize (lenField x) → P x)
    (emit : ∀ x f, minFrameLen ≤ x.length → byteAt x 0 = startDelim → totalFrameSize (lenField x) ≤ x.length →
      deserializeBytes (x.take (totalFrameSize (lenField x))) = .ok f → P (x.drop (totalFrameSize (lenField x))) → P x)
    (discard : ∀ x e, minFrameLen ≤ x.length → byteAt x 0 = startDelim → totalFrameSize (lenField x) ≤ x.length →
      deserializeBytes (x.take (totalFrameSize (lenField x))) = .error e → P (x.drop (totalFrameSize (lenField x))) → P x)
    (x : Bytes) : P x := by
  suffices h : ∀ n (x : Bytes), x.length ≤ n → P x from h x.length x (Nat.le_refl _)
  intro n
  induction n with
  | zero => intro x hx; exact short x (by unfold minFrameLen; omega)
  | succ n ih =>
    intro x hx
    by_cases h1 : x.length < minFrameLen
    · exact short x h1
    have hm : 1 ≤ x.length := by unfold minFrameLen at h1; omega
    have hT : 4 ≤ totalFrameSize (lenField x) := by unfold totalFrameSize; omega
    by_cases h0 : byteAt x 0 = startDelim
    · by_cases h2 : x.length < totalFrameSize (lenField x)
      · exact wait x (by omega) h0 h2
      · have hr := ih (x.drop (totalFrameSize (lenField x))) (by simp; omega)
        cases hf : deserializeBytes (x.take (totalFrameSize (lenField x))) with
        | ok f => exact emit x f (by omega) h0 (by omega) hf hr
        | error e => exact discard x e (by omega) h0 (by omega) hf hr
    · exact drop x (by omega) h0 (ih _ (by simp; omega))

end Sys2Proof
end

