-- ==== Sys2Proof/Laws/Framer.lean ====
section
/-! SUPPORT. The framer's shared operations: what selects a transition, what a transition can do, and the run of the extraction
loop in closed form. -/

namespace Sys2Proof.Machine

open Sys2Proof

/-! ### Selection -/

theorem selectScan_short {x : Bytes} (h : x.length < minFrameLen) : selectScan x = .short := by
  rw [selectScan, if_pos h]

theorem selectScan_drop {x : Bytes} (h : minFrameLen ≤ x.length) (h0 : byteAt x 0 ≠ startDelim) : selectScan x = .drop := by
  rw [selectScan, if_neg (by omega), if_pos h0]

theorem selectScan_wait {x : Bytes} (h : minFrameLen ≤ x.length) (h0 : byteAt x 0 = startDelim)
    (hT : x.length < totalFrameSize (lenField x)) : selectScan x = .wait := by
  rw [selectScan, if_neg (by omega), if_neg (by simpa using h0), if_pos hT]

theorem selectScan_emit {x : Bytes} {f : Frame} (h : minFrameLen ≤ x.length) (h0 : byteAt x 0 = startDelim)
    (hT : totalFrameSize (lenField x) ≤ x.length)
    (hf : deserializeBytes (x.take (totalFrameSize (lenField x))) = .ok f) : selectScan x = .emit := by
  rw [selectScan, if_neg (by omega), if_neg (by simpa using h0), if_neg (by omega), hf]

theorem selectScan_discard {x : Bytes} {e : Error} (h : minFrameLen ≤ x.length) (h0 : byteAt x 0 = startDelim)
    (hT : totalFrameSize (lenField x) ≤ x.length)
    (hf : deserializeBytes (x.take (totalFrameSize (lenField x))) = .error e) : selectScan x = .discard := by
  rw [selectScan, if_neg (by omega), if_neg (by simpa using h0), if_neg (by omega), hf]

/-- What the selection in the extraction loop means, said once (R59). -/
theorem selectScan_cases (x : Bytes) :
    (selectScan x = .short ∧ x.length < minFrameLen) ∨
    (selectScan x = .drop ∧ minFrameLen ≤ x.length ∧ byteAt x 0 ≠ startDelim) ∨
    (selectScan x = .wait ∧ minFrameLen ≤ x.length ∧ byteAt x 0 = startDelim ∧ x.length < totalFrameSize (lenField x)) ∨
    (selectScan x = .emit ∧ minFrameLen ≤ x.length ∧ byteAt x 0 = startDelim ∧ totalFrameSize (lenField x) ≤ x.length ∧
      ∃ f, deserializeBytes (x.take (totalFrameSize (lenField x))) = .ok f) ∨
    (selectScan x = .discard ∧ minFrameLen ≤ x.length ∧ byteAt x 0 = startDelim ∧ totalFrameSize (lenField x) ≤ x.length ∧
      ∃ e, deserializeBytes (x.take (totalFrameSize (lenField x))) = .error e) := by
  by_cases h : x.length < minFrameLen
  · exact .inl ⟨selectScan_short h, h⟩
  by_cases h0 : byteAt x 0 = startDelim
  · by_cases hT : x.length < totalFrameSize (lenField x)
    · exact .inr (.inr (.inl ⟨selectScan_wait (by omega) h0 hT, by omega, h0, hT⟩))
    · cases hf : deserializeBytes (x.take (totalFrameSize (lenField x))) with
      | ok f => exact .inr (.inr (.inr (.inl ⟨selectScan_emit (by omega) h0 (by omega) hf, by omega, h0, by omega, f, rfl⟩)))
      | error e => exact .inr (.inr (.inr (.inr ⟨selectScan_discard (by omega) h0 (by omega) hf, by omega, h0, by omega, e, rfl⟩)))
  · exact .inr (.inl ⟨selectScan_drop (by omega) h0, by omega, h0⟩)

/-! ### The transitions of the loop, run from their selection -/

theorem selectTransition_scan {s : State} (h : s.fsm = .scan) : selectTransition s = some (selectScan s.acc) := by
  unfold selectTransition; rw [h]

theorem selectTransition_finish {s : State} (h : s.fsm = .finish) : selectTransition s = some .compact := by
  unfold selectTransition; rw [h]

/-- What selects a transition of the idle framer (R59, R83). -/
theorem selectTransition_idle {s : State} {τ : Transition} (h : s.fsm = .idle) :
    selectTransition s = some τ ↔
      (τ = .linkData ∧ ∃ c rest, s.link = .data c :: rest ∧ admitsChunk c s = true) ∨
      (τ = .linkClosed ∧ ∃ rest, s.link = .empty :: rest ∨ s.link = .closed :: rest) ∨
      (τ = .linkError ∧ ∃ cause rest, s.link = .error cause :: rest) := by
  unfold selectTransition
  rw [h]
  rcases s.link with _ | ⟨_ | _ | _ | _, rest⟩ <;> cases τ <;> simp

theorem scanTransition_selected {t : Transition} {s : State} {e : Out} (h : s.fsm = .scan) (ht : selectScan s.acc = t) :
    scanTransition t s e = e := by
  unfold scanTransition; rw [h]; simp [ht]

/-- If a transition of the loop answers a next state, it was the selected one (R59). -/
theorem scanTransition_next {t : Transition} {s s' : State} {e : Out} (h : scanTransition t s e = .next s') :
    s.fsm = .scan ∧ selectScan s.acc = t ∧ e = .next s' := by
  unfold scanTransition at h
  split at h
  · split at h
    · exact ⟨by assumption, by assumption, h⟩
    · exact absurd h (by simp)
  · exact absurd h (by simp)

/-- One iteration of the run to IDLE. -/
theorem runToIdle_succ {s s' : State} {t : Transition} (n : Nat) (ht : selectTransition s = some t)
    (hr : runTransition t s = .next s') : runToIdle (n + 1) s = if s'.fsm = .idle then .next s' else runToIdle n s' := by
  rw [runToIdle, ht]; simp only [hr]

/-- The state in which a read cycle ends whose loop starts in `s` (R82, R95, R96, R98). -/
def cycleEnd (s : State) : State :=
  { s with acc := (extract s.acc).1, fsm := .idle, out := [],
           cap := compactedCap s.params.compactThreshold s.cap (extract s.acc).1.length,
           results := s.results ++ [.frames (s.out ++ (extract s.acc).2)] }

theorem runToIdle_finish {s : State} (n : Nat) (h : s.fsm = .finish) :
    runToIdle (n + 1) s = .next (clearOut (setFsm .idle (respond (.frames s.out) (compactStorage s)))) := by
  rw [runToIdle_succ n (selectTransition_finish h) (by rw [runTransition, execFrCompact, h])]
  rfl

/-- The loop that stops on `s` ends the cycle two transitions later, with nothing extracted. -/
theorem runToIdle_stops {s : State} (n : Nat) (h : s.fsm = .scan) (ht : selectScan s.acc = .short ∨ selectScan s.acc = .wait)
    (hx : extract s.acc = (s.acc, [])) : runToIdle (n + 2) s = .next (cycleEnd s) := by
  have hr : runTransition (selectScan s.acc) s = .next (setFsm .finish s) := by
    rcases ht with ht | ht <;> rw [ht] <;> exact scanTransition_selected h ht
  rw [runToIdle_succ (n + 1) (selectTransition_scan h) hr, if_neg (by simp), runToIdle_finish n (by simp)]
  simp [cycleEnd, hx, clearOut, setFsm, respond, compactStorage]

/-- The extraction loop in closed form: from SCAN, with iterations enough, the cycle ends with `Extract` of the accumulator
(R98). -/
theorem runToIdle_scan (x : Bytes) : ∀ (s : State) (n : Nat), s.acc = x → s.fsm = .scan → x.length + 2 ≤ n →
    runToIdle n s = .next (cycleEnd s) := by
  induction x using extract_induction with
  | short x h =>
    rintro s n rfl hs hn
    obtain ⟨k, rfl⟩ : ∃ k, n = k + 2 := ⟨n - 2, by omega⟩
    exact runToIdle_stops k hs (.inl (selectScan_short h)) (extract_short h)
  | wait x h h0 hT =>
    rintro s n rfl hs hn
    obtain ⟨k, rfl⟩ : ∃ k, n = k + 2 := ⟨n - 2, by omega⟩
    exact runToIdle_stops k hs (.inr (selectScan_wait h h0 hT)) (extract_wait h h0 hT)
  | drop x h h0 ih =>
    rintro s n rfl hs hn
    obtain ⟨k, rfl⟩ : ∃ k, n = k + 1 := ⟨n - 1, by omega⟩
    have ht := selectScan_drop h h0
    have hr : runTransition (selectScan s.acc) s = .next (accDrop 1 s) := by rw [ht]; exact scanTransition_selected hs ht
    have hm : 1 ≤ s.acc.length := by unfold minFrameLen at h; omega
    rw [runToIdle_succ k (selectTransition_scan hs) hr, if_neg (by simp [hs]),
      ih (accDrop 1 s) k (by simp) (by simp [hs]) (by simp; omega)]
    simp [cycleEnd, accDrop, extract_drop h h0]
  | emit x f h h0 hT hf ih =>
    rintro s n rfl hs hn
    obtain ⟨k, rfl⟩ : ∃ k, n = k + 1 := ⟨n - 1, by omega⟩
    have ht := selectScan_emit h h0 hT hf
    have hb : deserializeBytes s.block = .ok f := hf
    have hr : runTransition (selectScan s.acc) s = .next (accDrop s.blockSize (emitFrame f s)) := by
      rw [ht, runTransition, execFrEmit, hb, scanTransition_selected hs ht]
    have h4 : 4 ≤ totalFrameSize (lenField s.acc) := by unfold totalFrameSize; omega
    rw [runToIdle_succ k (selectTransition_scan hs) hr, if_neg (by simp [hs]),
      ih (accDrop s.blockSize (emitFrame f s)) k (by simp [State.blockSize, State.lenField]) (by simp [hs])
        (by simp; omega)]
    simp [cycleEnd, accDrop, emitFrame, extract_emit h h0 hT hf, State.blockSize, State.lenField]
  | discard x e h h0 hT hf ih =>
    rintro s n rfl hs hn
    obtain ⟨k, rfl⟩ : ∃ k, n = k + 1 := ⟨n - 1, by omega⟩
    have ht := selectScan_discard h h0 hT hf
    have hr : runTransition (selectScan s.acc) s = .next (accDrop s.blockSize s) := by
      rw [ht]; exact scanTransition_selected hs ht
    have h4 : 4 ≤ totalFrameSize (lenField s.acc) := by unfold totalFrameSize; omega
    rw [runToIdle_succ k (selectTransition_scan hs) hr, if_neg (by simp [hs]),
      ih (accDrop s.blockSize s) k (by simp [State.blockSize, State.lenField]) (by simp [hs]) (by simp; omega)]
    simp [cycleEnd, accDrop, extract_discard h h0 hT hf, State.blockSize, State.lenField]

/-! ### What the operations can do -/

theorem admitsChunk_iff (c : Bytes) (s : State) :
    admitsChunk c s = true ↔ 1 ≤ c.length ∧ c.length ≤ s.params.readSize := by
  rw [admitsChunk, admitsEvent, LinkEvent.wf, Bool.and_eq_true, decide_eq_true_iff, decide_eq_true_iff]

theorem framerFree_iff (s : State) : framerFree s = true ↔ s.fsm = .idle ∧ s.waiting = false := by
  simp [framerFree]

/-- The instruction of a transition performs that transition. -/
theorem exec_transition (τ : Transition) (s : State) : exec τ.instr s = runTransition τ s := by
  cases τ <;> rfl

/-- A run of one step more, where the first step answers a next state. -/
theorem run_succ (M : Host.Core) (k : Nat) (s s' : M.State) (h : M.step s = .next s') : M.run (k + 1) s = M.run k s' := by
  simp [Host.Core.run, h]

/-- If a codec answer is a next state, it appended one result or set the mark. -/
theorem answerIf_next {a : Bool} {r : Result} {s t : State} (h : answerIf a r s = .next t) :
    (a = true ∧ t = respond r s) ∨ (a = false ∧ t = refuse s) := by
  unfold answerIf at h
  cases a <;> simp_all

/-- What a transition that answers a next state did, said once (R81, R83 to R95). -/
theorem runTransition_next {t : Transition} {s s' : State} (h : runTransition t s = .next s') :
    (t = .linkData ∧ s.fsm = .idle ∧ ∃ c rest, s.link = .data c :: rest ∧ admitsChunk c s = true ∧
      s' = setFsm .scan (clearOut (accAppend c (fillScratch c (takeEvent s))))) ∨
    (t = .linkData ∧ s.fsm = .idle ∧ ∃ c rest, s.link = .data c :: rest ∧ admitsChunk c s = false ∧
      s' = refuseEvent s) ∨
    (t = .linkClosed ∧ s.fsm = .idle ∧ (∃ rest, s.link = .empty :: rest ∨ s.link = .closed :: rest) ∧
      s' = respond (.err .linkClosed) (takeEvent s)) ∨
    (t = .linkError ∧ s.fsm = .idle ∧ ∃ cause rest, s.link = .error cause :: rest ∧
      s' = respond (.err (.linkReadError cause)) (takeEvent s)) ∨
    ((t = .short ∨ t = .wait) ∧ s.fsm = .scan ∧ selectScan s.acc = t ∧ s' = setFsm .finish s) ∨
    (t = .drop ∧ s.fsm = .scan ∧ selectScan s.acc = t ∧ s' = accDrop 1 s) ∨
    (t = .emit ∧ s.fsm = .scan ∧ selectScan s.acc = t ∧ ∃ f, deserializeBytes s.block = .ok f ∧
      s' = accDrop s.blockSize (emitFrame f s)) ∨
    (t = .discard ∧ s.fsm = .scan ∧ selectScan s.acc = t ∧ s' = accDrop s.blockSize s) ∨
    (t = .compact ∧ s.fsm = .finish ∧ s' = clearOut (setFsm .idle (respond (.frames s.out) (compactStorage s)))) := by
  cases t with
  | linkData =>
    simp only [runTransition, execFrLinkData] at h
    split at h
    · split at h
      · exact .inl ⟨rfl, by assumption, _, _, by assumption, by assumption, (Host.Outcome.next.inj h).symm⟩
      · exact .inr (.inl ⟨rfl, by assumption, _, _, by assumption, by simp_all, (Host.Outcome.next.inj h).symm⟩)
    · exact absurd h (by simp)
  | linkClosed =>
    simp only [runTransition, execFrLinkClosed] at h
    split at h
    · exact .inr (.inr (.inl ⟨rfl, by assumption, ⟨_, .inl (by assumption)⟩, (Host.Outcome.next.inj h).symm⟩))
    · exact .inr (.inr (.inl ⟨rfl, by assumption, ⟨_, .inr (by assumption)⟩, (Host.Outcome.next.inj h).symm⟩))
    · exact absurd h (by simp)
  | linkError =>
    simp only [runTransition, execFrLinkError] at h
    split at h
    · exact .inr (.inr (.inr (.inl ⟨rfl, by assumption, _, _, by assumption, (Host.Outcome.next.inj h).symm⟩)))
    · exact absurd h (by simp)
  | short =>
    obtain ⟨hs, ht, he⟩ := scanTransition_next h
    exact .inr (.inr (.inr (.inr (.inl ⟨.inl rfl, hs, ht, (Host.Outcome.next.inj he).symm⟩))))
  | wait =>
    obtain ⟨hs, ht, he⟩ := scanTransition_next h
    exact .inr (.inr (.inr (.inr (.inl ⟨.inr rfl, hs, ht, (Host.Outcome.next.inj he).symm⟩))))
  | drop =>
    obtain ⟨hs, ht, he⟩ := scanTransition_next h
    exact .inr (.inr (.inr (.inr (.inr (.inl ⟨rfl, hs, ht, (Host.Outcome.next.inj he).symm⟩)))))
  | emit =>
    obtain ⟨hs, ht, he⟩ := scanTransition_next h
    split at he
    · exact .inr (.inr (.inr (.inr (.inr (.inr (.inl ⟨rfl, hs, ht, _, by assumption, (Host.Outcome.next.inj he).symm⟩))))))
    · exact absurd he (by simp)
  | discard =>
    obtain ⟨hs, ht, he⟩ := scanTransition_next h
    exact .inr (.inr (.inr (.inr (.inr (.inr (.inr (.inl ⟨rfl, hs, ht, (Host.Outcome.next.inj he).symm⟩)))))))
  | compact =>
    simp only [runTransition, execFrCompact] at h
    split at h
    · exact .inr (.inr (.inr (.inr (.inr (.inr (.inr (.inr ⟨rfl, by assumption, (Host.Outcome.next.inj h).symm⟩)))))))
    · exact absurd h (by simp)

/-- A property that every transition keeps is kept by a run of transitions to IDLE. -/
theorem runToIdle_keeps {P : State → Prop} (hP : ∀ t s s', P s → runTransition t s = .next s' → P s') (n : Nat) :
    ∀ s s', P s → runToIdle n s = .next s' → P s' := by
  induction n with
  | zero => intro s s' _ h; exact absurd h (by simp [runToIdle])
  | succ n ih =>
    intro s s' hs h
    rw [runToIdle] at h
    split at h
    · obtain rfl := Host.Outcome.next.inj h; exact hs
    · split at h
      · next t _ s₁ hr =>
        have h₁ := hP _ _ _ hs hr
        split at h
        · obtain rfl := Host.Outcome.next.inj h; exact h₁
        · exact ih _ _ h₁ h
      · exact absurd h (by simp)
      · exact absurd h (by simp)

/-- If READ_CYCLE answers a next state, it blocked on the link, was refused for its event, or ran the transitions to IDLE. -/
theorem execReadCycle_next {s t : State} (h : execReadCycle s = .next t) :
    framerFree s = true ∧ ((s.link = [] ∧ t = blockOnLink s) ∨
      ∃ ev rest, s.link = ev :: rest ∧ ((admitsEvent ev s = false ∧ t = refuseEvent s) ∨
        (admitsEvent ev s = true ∧ runToIdle (cycleBound s) s = .next t))) := by
  unfold execReadCycle at h
  split at h
  · refine ⟨by assumption, ?_⟩
    split at h
    · exact .inl ⟨by assumption, (Host.Outcome.next.inj h).symm⟩
    · refine .inr ⟨_, _, by assumption, ?_⟩
      split at h
      · exact .inr ⟨by assumption, h⟩
      · exact .inl ⟨by simp_all, (Host.Outcome.next.inj h).symm⟩
  · exact absurd h (by simp)

/-- If RESET answers a next state, no cycle was in progress. -/
theorem execReset_next {s t : State} (h : execReset s = .next t) : framerFree s = true ∧ t = respond .done (clearFramer s) := by
  unfold execReset at h
  split at h
  · exact ⟨by assumption, (Host.Outcome.next.inj h).symm⟩
  · exact absurd h (by simp)

/-- What a next state of `exec` is, said once: a codec answer, a refusal, RESET, a read cycle, or a transition. -/
theorem exec_next {i : Instr} {s t : State} (h : exec i s = .next t) :
    (∃ r, framerOwned i = false ∧ t = respond r s) ∨ (framerOwned i = false ∧ t = refuse s) ∨
    (i = .reset ∧ framerFree s = true ∧ t = respond .done (clearFramer s)) ∨
    (i = .readCycle ∧ framerFree s = true ∧ ((s.link = [] ∧ t = blockOnLink s) ∨
      ∃ ev rest, s.link = ev :: rest ∧ ((admitsEvent ev s = false ∧ t = refuseEvent s) ∨
        (admitsEvent ev s = true ∧ runToIdle (cycleBound s) s = .next t)))) ∨
    (∃ τ : Transition, τ.instr = i ∧ runTransition τ s = .next t) := by
  cases i with
  | reset => exact .inr (.inr (.inl ⟨rfl, execReset_next h⟩))
  | readCycle => exact .inr (.inr (.inr (.inl ⟨rfl, execReadCycle_next h⟩)))
  | serialize b =>
    rcases answerIf_next h with ⟨_, rfl⟩ | ⟨_, rfl⟩
    · exact .inl ⟨_, rfl, rfl⟩
    · exact .inr (.inl ⟨rfl, rfl⟩)
  | deserialize b => exact .inl ⟨_, rfl, (Host.Outcome.next.inj h).symm⟩
  | checksum b => exact .inl ⟨_, rfl, (Host.Outcome.next.inj h).symm⟩
  | frameSize n => exact .inl ⟨_, rfl, (Host.Outcome.next.inj h).symm⟩
  | reserved110 => exact .inr (.inl ⟨rfl, (Host.Outcome.next.inj h).symm⟩)
  | reserved111 => exact .inr (.inl ⟨rfl, (Host.Outcome.next.inj h).symm⟩)
  | frLinkData => exact .inr (.inr (.inr (.inr ⟨.linkData, rfl, h⟩)))
  | frLinkClosed => exact .inr (.inr (.inr (.inr ⟨.linkClosed, rfl, h⟩)))
  | frLinkError => exact .inr (.inr (.inr (.inr ⟨.linkError, rfl, h⟩)))
  | frShort => exact .inr (.inr (.inr (.inr ⟨.short, rfl, h⟩)))
  | frDrop => exact .inr (.inr (.inr (.inr ⟨.drop, rfl, h⟩)))
  | frWait => exact .inr (.inr (.inr (.inr ⟨.wait, rfl, h⟩)))
  | frEmit => exact .inr (.inr (.inr (.inr ⟨.emit, rfl, h⟩)))
  | frDiscard => exact .inr (.inr (.inr (.inr ⟨.discard, rfl, h⟩)))
  | frCompact => exact .inr (.inr (.inr (.inr ⟨.compact, rfl, h⟩)))

/-- What a next state of `step` is: the machine waits, or it ran an instruction. -/
theorem step_next {s t : State} (h : step s = .next t) :
    (fetch s = .wait ∧ t = s) ∨ ∃ i s', fetch s = .run i s' ∧ exec i s' = .next t := by
  unfold step at h
  split at h
  · exact .inr ⟨_, _, by assumption, h⟩
  · exact .inl ⟨by assumption, (Host.Outcome.next.inj h).symm⟩
  · exact absurd h (by simp)

/-- A step runs its instruction in the state itself, or in that state with the command taken off the port or the wait ended. -/
theorem fetch_run {s s' : State} {i : Instr} (h : fetch s = .run i s') :
    s' = s ∨ (s.fsm = .idle ∧ s' = { s with waiting := false }) ∨
      (s.fsm = .idle ∧ ∃ c, s.commands = c :: s'.commands ∧ s' = { s with commands := s'.commands } ∧ decodeCommand c = .ok i) := by
  unfold fetch at h
  split at h
  · next hf =>
    split at h
    · injection h with _ h2; exact .inr (.inl ⟨hf, h2.symm⟩)
    · unfold fetchCommand at h
      split at h
      · exact absurd h (by simp)
      · next c rest hc =>
        split at h
        · exact absurd h (by simp)
        · next j hj =>
          split at h
          · exact absurd h (by simp)
          · injection h with h1 h2
            subst h1 h2
            exact .inr (.inr ⟨hf, c, hc, rfl, hj⟩)
  · injection h with _ h2; exact .inl h2.symm
  · injection h with _ h2; exact .inl h2.symm

end Sys2Proof.Machine
end

