-- ==== Sys2Proof/Laws/PerInstr.lean ====
section
/-! SUPPORT. A statement about every instruction as syntax, one lemma a constructor: the operation set is the commands of
30_encoding.md R55 and R56, each with a code, and the transitions of R59, which have none. -/

namespace Sys2Proof.Laws.CommandOrTransition

/-- The instruction has a command code, or else it is the instruction of a framer transition, which the host cannot issue
(R55, R56, R59). -/
def Statement (i : Instr) : Prop :=
  (∃ c, encodeCommand i = some c) ∨ (encodeCommand i = none ∧ ∃ t : Transition, t.instr = i)

theorem reset : Statement .reset := .inl ⟨_, rfl⟩
theorem readCycle : Statement .readCycle := .inl ⟨_, rfl⟩
theorem serialize (b : Bytes) : Statement (.serialize b) := .inl ⟨_, rfl⟩
theorem deserialize (b : Bytes) : Statement (.deserialize b) := .inl ⟨_, rfl⟩
theorem checksum (b : Bytes) : Statement (.checksum b) := .inl ⟨_, rfl⟩
theorem frameSize (n : U16) : Statement (.frameSize n) := .inl ⟨_, rfl⟩
theorem reserved110 : Statement .reserved110 := .inl ⟨_, rfl⟩
theorem reserved111 : Statement .reserved111 := .inl ⟨_, rfl⟩
theorem frLinkData : Statement .frLinkData := .inr ⟨rfl, .linkData, rfl⟩
theorem frLinkClosed : Statement .frLinkClosed := .inr ⟨rfl, .linkClosed, rfl⟩
theorem frLinkError : Statement .frLinkError := .inr ⟨rfl, .linkError, rfl⟩
theorem frShort : Statement .frShort := .inr ⟨rfl, .short, rfl⟩
theorem frDrop : Statement .frDrop := .inr ⟨rfl, .drop, rfl⟩
theorem frWait : Statement .frWait := .inr ⟨rfl, .wait, rfl⟩
theorem frEmit : Statement .frEmit := .inr ⟨rfl, .emit, rfl⟩
theorem frDiscard : Statement .frDiscard := .inr ⟨rfl, .discard, rfl⟩
theorem frCompact : Statement .frCompact := .inr ⟨rfl, .compact, rfl⟩

end Sys2Proof.Laws.CommandOrTransition
end

