-- ==== Sys2Proof/Tests/Slice0.lean ====
section
/-! SUPPORT. The model's own tests: the WellFormed smoke, decoding of written-out words, the spec's vectors (95_test_vectors.md)
on single steps, and a witness for the hypotheses of every statement. -/

namespace Sys2Proof.Tests

open Sys2Proof Sys2Proof.Machine

/-! ### Helpers -/

/-- Whether an outcome is a next state that passes a check. -/
def nextIs (o : Out) (check : State → Bool) : Bool :=
  match o with
  | .next t => check t
  | .fault _ => false
  | .refused _ => false

/-- An idle framer with bytes held and events to come. -/
def idleWith (acc : Bytes) (events : List LinkEvent) : State := { State.reset with acc := acc, link := events }

/-- A framer in its extraction loop. -/
def scanWith (acc : Bytes) : State := { State.reset with fsm := .scan, acc := acc }

/-- A framer whose loop has ended. -/
def finishWith (acc : Bytes) (out : List Frame) : State := { State.reset with fsm := .finish, acc := acc, out := out }

/-- A host that issues one READ_CYCLE for each event. -/
def readsOf (events : List LinkEvent) : State :=
  { State.reset with link := events, commands := List.replicate events.length readCommand }

/-- The wire bytes of the AT "AP" frame (V1). -/
def wireAP : Bytes := [0x7E, 0x00, 0x04, 0x08, 0x01, 0x41, 0x50, 0x65]

/-- The AT "AP" frame (V5). -/
def frameAP : Frame := ⟨4, [0x08, 0x01, 0x41, 0x50], 0x65⟩

/-- The smallest wire frame of the READ_CYCLE vectors (V51). -/
def wire08 : Bytes := [0x7E, 0x00, 0x01, 0x08, 0xF7]

/-- Its frame. -/
def frame08 : Frame := ⟨1, [0x08], 0xF7⟩

/-! ### The smoke test of WellFormed: an ill-formed term for each check -/

theorem test_wf_empty_body : isFrameBuffer [] = false := by decide
theorem test_wf_long_body : isFrameBuffer (List.replicate 65536 0) = false := by
  rw [Bool.eq_false_iff, ne_eq, isFrameBuffer_iff, List.length_replicate]; omega
theorem test_wf_serialize_empty : (Instr.serialize []).wf = false := by decide
theorem test_wf_reserved : Instr.reserved110.wf = false ∧ Instr.reserved111.wf = false := by decide
theorem test_wf_chunk_empty : (LinkEvent.data []).wf 16 = false := by decide
theorem test_wf_chunk_long : (LinkEvent.data (List.replicate 17 0)).wf 16 = false := by decide
theorem test_wf_frame_length : (Frame.mk 2 [0x08] 0xF7).wf = false := by decide
theorem test_wf_frame_empty : (Frame.mk 0 [] 0xFF).wf = false := by decide
theorem test_wf_frame_checksum : (Frame.mk 1 [0x08] 0xF6).wf = false := by decide
theorem test_wf_good : frameAP.wf = true ∧ (Instr.serialize [0x00]).wf = true ∧ (LinkEvent.data [0x00]).wf 1 = true := by decide

/-! ### Decoding: a written-out word for every constructor (R55, R59, R60) -/

theorem test_decode_reset : decodeCommand ⟨0b000, .none⟩ = .ok .reset := by rfl
theorem test_decode_read_cycle : decodeCommand ⟨0b001, .none⟩ = .ok .readCycle := by rfl
theorem test_decode_serialize : decodeCommand ⟨0b010, .bytes [0x8A, 0x06]⟩ = .ok (.serialize [0x8A, 0x06]) := by rfl
theorem test_decode_deserialize : decodeCommand ⟨0b011, .bytes [0x7E]⟩ = .ok (.deserialize [0x7E]) := by rfl
theorem test_decode_checksum : decodeCommand ⟨0b100, .bytes []⟩ = .ok (.checksum []) := by rfl
theorem test_decode_frame_size : decodeCommand ⟨0b101, .len 65535⟩ = .ok (.frameSize 65535) := by rfl
theorem test_decode_reserved110 : decodeCommand ⟨0b110, .bytes [1]⟩ = .ok .reserved110 := by rfl
theorem test_decode_reserved111 : decodeCommand ⟨0b111, .none⟩ = .ok .reserved111 := by rfl
theorem test_decode_wrong_operand : decodeCommand ⟨0b000, .bytes []⟩ = .error .operandForm ∧
    decodeCommand ⟨0b010, .none⟩ = .error .operandForm ∧ decodeCommand ⟨0b101, .bytes []⟩ = .error .operandForm := by
  exact ⟨rfl, rfl, rfl⟩
theorem test_table_words : ((List.range 8).map (decodeTableWord 8)) =
    [some .reset, some .readCycle, some (.serialize [0]), some (.deserialize [0]), some (.checksum [0]), some (.frameSize 0),
      some .reserved110, some .reserved111] := by decide
theorem test_table_head : decodeTableWord 8 0x7E = some .frDiscard ∧ decodeTableWord 8 0x41 = some .frDrop ∧
    decodeTableWord 8 256 = none := by decide
theorem test_select_link_data : selectTransition (idleWith [] [.data [0x04]]) = some .linkData := by decide
theorem test_select_link_closed : selectTransition (idleWith [] [.empty]) = some .linkClosed ∧
    selectTransition (idleWith [] [.closed]) = some .linkClosed := by decide
theorem test_select_link_error : selectTransition (idleWith [] [.error ['E']]) = some .linkError := by decide
theorem test_select_short : selectTransition (scanWith [0x00, 0x00, 0x7E, 0x00]) = some .short := by decide
theorem test_select_drop : selectTransition (scanWith (0x41 :: wire08)) = some .drop := by decide
theorem test_select_wait : selectTransition (scanWith [0x7E, 0x00, 0x04, 0x08, 0x01]) = some .wait := by decide
theorem test_select_emit : selectTransition (scanWith (wire08 ++ [0x7E])) = some .emit := by decide
theorem test_select_discard : selectTransition (scanWith [0x7E, 0x00, 0x01, 0x08, 0xF6]) = some .discard := by decide
theorem test_select_compact : selectTransition (finishWith [] []) = some .compact := by decide

/-! ### The commands -/

/-- V59, first line: a partial frame is discarded. -/
theorem test_reset_discards : nextIs (exec .reset (idleWith [0x7E, 0x00, 0x04, 0x08] []))
    (fun t => t.acc == [] && t.results == [.done]) = true := by decide
/-- R27: RESET does not clear the mark. -/
theorem test_reset_keeps_mark : nextIs (exec .reset { State.reset with refused := true }) (fun t => t.refused) = true := by decide
/-- V54: the first block fails its checksum, the second is emitted. -/
theorem test_read_cycle_discards_and_emits : nextIs (exec .readCycle (idleWith [] [.data ([0x7E, 0x00, 0x01, 0x08, 0xF6] ++ wire08)]))
    (fun t => t.acc == [] && t.results == [.frames [frame08]] && decide (t.fsm = .idle)) = true := by decide
/-- V58: 17 bytes in one chunk are refused. -/
theorem test_read_cycle_refuses_long_chunk : nextIs (exec .readCycle (idleWith [] [.data (List.replicate 17 0)]))
    (fun t => t.refused && t.acc == [] && t.results == []) = true := by decide
/-- V51, V55 and V58: the traces of two cycles, and no transition for a refused chunk. -/
theorem test_traces :
    cycleTrace 11 (idleWith [] [.data (0x41 :: wire08)]) = [.linkData, .drop, .emit, .short, .compact] ∧
    cycleTrace 11 (idleWith [] [.data ([0x7E, 0x00, 0x00, 0xFF] ++ wire08)]) = [.linkData, .discard, .emit, .short, .compact] ∧
    cycleTrace 11 (idleWith [] [.data (List.replicate 17 0)]) = [] := by
  decide
/-- V24: no escaping of 0x7E. -/
theorem test_serialize_no_escape : nextIs (exec (.serialize [0x10, 0x7E, 0x7E]) State.reset)
    (fun t => t.results == [.bytes [0x7E, 0x00, 0x03, 0x10, 0x7E, 0x7E, 0xF3]]) = true := by decide
/-- V27: an empty body is refused. -/
theorem test_serialize_refuses_empty : nextIs (exec (.serialize []) State.reset)
    (fun t => t.refused && t.results == []) = true := by decide
/-- V2. -/
theorem test_deserialize_ok : nextIs (exec (.deserialize [0x7E, 0x00, 0x07, 0x88, 0x01, 0x4D, 0x59, 0x00, 0x00, 0x00, 0xD0]) State.reset)
    (fun t => t.results == [.frame ⟨7, [0x88, 0x01, 0x4D, 0x59, 0x00, 0x00, 0x00], 0xD0⟩]) = true := by decide
/-- V31 to V35, V38 and V43: one input for each error, and their order. -/
theorem test_deserialize_errors :
    [[0x7E, 0x00, 0x00, 0xFF], [0x7E, 0x00, 0x00, 0xFF, 0x00], [0x00, 0x00, 0x00, 0x00, 0x00], 0x7D :: wireAP.tail,
      [0x7E, 0x00, 0x05, 0x08, 0x01, 0x41, 0x50, 0x65], wireAP ++ [0x7E], [0x7E, 0xFF, 0xFF, 0x00, 0x00]].map deserializeResult =
    [.err .frameTooShort, .err .lengthMismatch, .err .invalidStartDelimiter, .err .invalidStartDelimiter, .err .lengthMismatch,
      .err .checksumInvalid, .err .checksumInvalid] := by decide
/-- V10, V12, V13 and V16. -/
theorem test_checksum_values : [[], [0xFF], [0xFF, 0x01], [0x01, 0x02, 0x03]].map checksumOf = [0xFF, 0x00, 0xFF, 0xF9] := by decide
/-- V14. -/
theorem test_checksum_command : nextIs (exec (.checksum [0x8A, 0x06]) State.reset)
    (fun t => t.results == [.checksum 0x6F] && t.acc == []) = true := by decide
/-- V17 and V20: the result does not wrap. -/
theorem test_frame_size : nextIs (exec (.frameSize 65535) State.reset) (fun t => t.results == [.size 65539]) = true ∧
    nextIs (exec (.frameSize 0) State.reset) (fun t => t.results == [.size 4]) = true := by decide
/-- R56: a reserved code sets the mark and returns nothing. -/
theorem test_reserved110_refused : nextIs (exec .reserved110 State.reset) (fun t => t.refused && t.results == []) = true := by decide
theorem test_reserved111_refused : nextIs (exec .reserved111 State.reset) (fun t => t.refused && t.results == []) = true := by decide

/-! ### The transitions -/

/-- The example of R83. -/
theorem test_link_data : nextIs (exec .frLinkData (idleWith [0x7E, 0x00] [.data [0x04, 0x08], .closed]))
    (fun t => t.acc == [0x7E, 0x00, 0x04, 0x08] && decide (t.fsm = .scan) && t.link == [.closed]) = true := by decide
/-- V47. -/
theorem test_link_closed : nextIs (exec .frLinkClosed (idleWith [0x7E, 0x00, 0x04] [.closed]))
    (fun t => t.acc == [0x7E, 0x00, 0x04] && t.results == [.err .linkClosed] && decide (t.fsm = .idle)) = true := by decide
/-- V49. -/
theorem test_link_error : nextIs (exec .frLinkError (idleWith [] [.error ['E', 'I', 'O']]))
    (fun t => t.acc == [] && t.results == [.err (.linkReadError ['E', 'I', 'O'])]) = true := by decide
/-- The example of R86. -/
theorem test_short : nextIs (exec .frShort (scanWith [0x00, 0x00, 0x7E, 0x00]))
    (fun t => decide (t.fsm = .finish) && t.acc == [0x00, 0x00, 0x7E, 0x00]) = true := by decide
/-- The example of R87. -/
theorem test_drop : nextIs (exec .frDrop (scanWith (0x41 :: wire08)))
    (fun t => decide (t.fsm = .scan) && t.acc == wire08) = true := by decide
/-- The example of R88. -/
theorem test_wait : nextIs (exec .frWait (scanWith [0x7E, 0x00, 0x04, 0x08, 0x01]))
    (fun t => decide (t.fsm = .finish) && t.acc == [0x7E, 0x00, 0x04, 0x08, 0x01]) = true := by decide
/-- The example of R89. -/
theorem test_emit : nextIs (exec .frEmit (scanWith (wire08 ++ [0x7E])))
    (fun t => decide (t.fsm = .scan) && t.acc == [0x7E] && t.out == [frame08]) = true := by decide
/-- The first block of R90's example. -/
theorem test_discard : nextIs (exec .frDiscard (scanWith ([0x7E, 0x00, 0x01, 0x08, 0xF6] ++ wire08)))
    (fun t => decide (t.fsm = .scan) && t.acc == wire08 && t.out == []) = true := by decide
/-- R95, R96: the content stays, the frames are returned. -/
theorem test_compact : nextIs (exec .frCompact (finishWith [0x7E] [frame08]))
    (fun t => decide (t.fsm = .idle) && t.acc == [0x7E] && t.results == [.frames [frame08]]) = true := by decide

/-! ### The step and the program notation -/

/-- P3, line 4, as a program line placed on the command port and run by one step. -/
theorem test_step_runs_a_loaded_line : nextIs (step (loadProgram [.cksum [0x8A, 0x06]] State.reset))
    (fun t => t.results == [.checksum 0x6F] && t.commands == []) = true := by decide
/-- R40, R44: while a READ_CYCLE waits for the link a codec command is served, and a RESET is not issued. -/
theorem test_step_while_waiting :
    nextIs (step { loadProgram [.fsize 4, .reset] State.reset with waiting := true })
      (fun t => t.results == [.size 8] && t.waiting) = true ∧
    nextIs (step { loadProgram [.reset] State.reset with waiting := true }) (fun t => t.results == [] && t.waiting) = true := by
  decide
/-- A table word placed on the reset state runs at once. -/
theorem test_step_runs_a_table_word : nextIs (step (State.reset.withFetchWord 8 5)) (fun t => t.results == [.size 4]) = true ∧
    nextIs (step (State.reset.withFetchWord 8 0x7E)) (fun t => t.acc == [0x00] && t.out == []) = true := by decide
/-- Lines of R60. -/
theorem test_parse_read : parseLine ['R', 'E', 'A', 'D', ' ', 'd', 'a', 't', 'a', '(', '7', 'E', ' ', '0', '0', ')'] =
    some (.readData [0x7E, 0x00]) := by decide
theorem test_parse_fsize : parseLine ['F', 'S', 'I', 'Z', 'E', ' ', '0', 'x', '1', '2'] = some (.fsize 18) := by decide
/-- V8: FEED with READ_SIZE 1, here of three bytes. -/
theorem test_feed : expandLine 1 (.feed [0x7E, 0x00, 0x04]) = [.readData [0x7E], .readData [0x00], .readData [0x04]] := by decide

/-! ### Witnesses: for each statement with hypotheses, states and operands that meet them together -/

theorem witness_CommandRoundTrip :
    encodeCommand (.serialize [0x7E]) = some ⟨0b010, .bytes [0x7E]⟩ ∧ decodeCommand ⟨0b101, .len 7⟩ = .ok (.frameSize 7) ∧
    Instr.frameSize 7 ≠ .reserved110 ∧ Instr.frameSize 7 ≠ .reserved111 := by
  exact ⟨rfl, rfl, by decide, by decide⟩

theorem witness_StepRunsTheDecodedCommand :
    (∃ (s : State) (c : Command) (rest : List Command) (i : Instr), s.fsm = .idle ∧ s.waiting = false ∧ s.commands = c :: rest ∧ decodeCommand c = .ok i) ∧
    (∃ (s : State) (c : Command) (rest : List Command) (e : DecodeError), s.fsm = .idle ∧ s.waiting = false ∧
      s.commands = c :: rest ∧ decodeCommand c = .error e) ∧
    (∃ s : State, s.fsm = .idle ∧ s.waiting = false ∧ s.commands = []) ∧
    (∃ s : State, s.fsm = .idle ∧ s.waiting = true ∧ s.link ≠ []) ∧
    (∃ (s : State) (c : Command) (rest : List Command) (i : Instr), s.fsm = .idle ∧ s.waiting = true ∧ s.link = [] ∧ s.commands = c :: rest ∧ decodeCommand c = .ok i) ∧
    (∃ s : State, s.fsm = .idle ∧ s.waiting = true ∧ s.link = [] ∧ s.commands = []) ∧
    (∃ s : State, s.fsm ≠ .idle) :=
  ⟨⟨{ State.reset with commands := [readCommand] }, _, _, _, rfl, rfl, rfl, rfl⟩,
    ⟨{ State.reset with commands := [⟨0b001, .len 0⟩] }, _, _, _, rfl, rfl, rfl, rfl⟩,
    ⟨State.reset, rfl, rfl, rfl⟩,
    ⟨{ State.reset with waiting := true, link := [.empty] }, rfl, rfl, by decide⟩,
    ⟨{ State.reset with waiting := true, commands := [readCommand] }, _, _, _, rfl, rfl, rfl, rfl, rfl⟩,
    ⟨{ State.reset with waiting := true }, rfl, rfl, rfl, rfl⟩,
    ⟨scanWith [], by decide⟩⟩

theorem witness_TableWordsDecodeAndRun : decodeTableWord 8 7 = some .reserved111 ∧ decodeTableWord 8 8 = some .frDrop ∧
    decodeTableWord 8 255 = some .frDrop := by decide

/-- Bodies at both ends of the range 1 to 65535, for SerializedFrameLayout, MakeFrameLaws and SerializeCommandResult. -/
theorem witness_body_lengths :
    (1 ≤ ([0x00] : Bytes).length ∧ ([0x00] : Bytes).length ≤ 65535) ∧
    (1 ≤ (List.replicate 65535 (0 : Byte)).length ∧ (List.replicate 65535 (0 : Byte)).length ≤ 65535) := by
  rw [List.length_replicate]; decide

theorem witness_ChecksumLaws : ([0x01, 0x02] : Bytes).Perm [0x02, 0x01] := List.Perm.swap _ _ _

theorem witness_ChecksumValidDecides : 5 ≤ wire08.length ∧ byteAt wire08 0 = 0x7E ∧
    (be16 (byteAt wire08 1) (byteAt wire08 2)).toNat = wire08.length - 4 := by decide

theorem witness_MakeFrameLaws : frameAP.wf = true := by decide

theorem witness_StepSixNeverFails : 5 ≤ wire08.length ∧ sum8 (wire08.drop 3) = 0xFF ∧
    (be16 (byteAt wire08 1) (byteAt wire08 2)).toNat = wire08.length - 4 := by decide

theorem witness_TypeAndPayloadOnlySummed :
    ([0x7E, 0x00, 0x02, 0x08, 0x01, 0xF6] : Bytes).length = ([0x7E, 0x00, 0x02, 0x07, 0x02, 0xF6] : Bytes).length ∧
    ([0x7E, 0x00, 0x02, 0x08, 0x01, 0xF6] : Bytes).take 3 = ([0x7E, 0x00, 0x02, 0x07, 0x02, 0xF6] : Bytes).take 3 ∧
    sum8 (([0x7E, 0x00, 0x02, 0x08, 0x01, 0xF6] : Bytes).drop 3) = sum8 (([0x7E, 0x00, 0x02, 0x07, 0x02, 0xF6] : Bytes).drop 3) ∧
    (List.replicate 65534 (0 : Byte)).length ≤ 65534 := by
  rw [List.length_replicate]; decide

theorem witness_DecodedFramesWellFormed : (match deserializeBytes wireAP with | .ok f => f == frameAP | .error _ => false) = true := by
  decide

theorem witness_LengthZeroNeverDecodes :
    (be16 (byteAt [0x7E, 0x00, 0x00, 0xFF] 1) (byteAt [0x7E, 0x00, 0x00, 0xFF] 2) = 0 ∧ ([0x7E, 0x00, 0x00, 0xFF] : Bytes).length = 4) ∧
    (be16 (byteAt [0x7E, 0x00, 0x00, 0xFF, 0x00] 1) (byteAt [0x7E, 0x00, 0x00, 0xFF, 0x00] 2) = 0 ∧
      5 ≤ ([0x7E, 0x00, 0x00, 0xFF, 0x00] : Bytes).length ∧ byteAt [0x7E, 0x00, 0x00, 0xFF, 0x00] 0 = 0x7E ∧
      sum8 (([0x7E, 0x00, 0x00, 0xFF, 0x00] : Bytes).drop 3) = 0xFF) := by decide

theorem sumNat_zeros (n : Nat) : sumNat (List.replicate n 0) = 0 := by
  induction n with
  | zero => rfl
  | succ n ih => rw [List.replicate_succ, sumNat, ih]; rfl

/-- An input one byte longer than the longest frame, with its delimiter and its sum in order. -/
def longInput : Bytes := 0x7E :: 0xFF :: 0xFF :: 0xFF :: List.replicate 65536 0

theorem witness_OtherLengthsNeverDecode :
    (65539 < longInput.length ∧ byteAt longInput 0 = 0x7E ∧ sum8 (longInput.drop 3) = 0xFF) ∧
    (2 ≤ [frameAP, frame08].length ∧ ∀ f ∈ [frameAP, frame08], f.wf = true) ∧
    (frameAP.wf = true ∧ ([0x00] : Bytes) ≠ []) ∧
    (frameAP.wf = true ∧ 0 < (serializeFrame frameAP).length ∧ 7 < (serializeFrame frameAP).length) := by
  refine ⟨⟨?_, rfl, ?_⟩, by decide, by decide, by decide⟩
  · simp only [longInput, List.length_cons, List.length_replicate]; omega
  · rw [sum8_eq_ff_iff]
    have h : longInput.drop 3 = 0xFF :: List.replicate 65536 0 := by
      unfold longInput; simp only [List.drop_succ_cons, List.drop_zero]
    rw [h, sumNat, sumNat_zeros]; rfl

/-- A frame for DeserializeAfterSerialize and SerializeAfterDeserialize, and its wire bytes. -/
theorem witness_round_trip : frameAP.wf = true ∧ serializeFrame frameAP = wireAP := by decide

theorem witness_SingleBitFlipDetected : frameAP.wf = true ∧ 3 ≤ 3 ∧ 3 < (serializeFrame frameAP).length ∧ 0 < 8 ∧
    3 ≤ 7 ∧ 7 < (serializeFrame frameAP).length ∧ 7 < 8 := by decide

/-- V34, V35 and V41. -/
theorem witness_OtherCorruptions : frameAP.wf = true ∧ (0x7D : Byte) ≠ 0x7E ∧ be16 0x00 0x05 ≠ frameAP.length ∧
    ([0x08, 0x02, 0x40, 0x50, 0x65] : Bytes).length = frameAP.body.length + 1 ∧
    sum8 [0x08, 0x02, 0x40, 0x50, 0x65] = sum8 ((serializeFrame frameAP).drop 3) := by decide

theorem witness_RefusalsChangeOnlyTheMark :
    (([] : Bytes).length = 0 ∧ 65535 < (List.replicate 65536 (0 : Byte)).length) ∧
    ((idleWith [] [.data []]).fsm = .idle ∧ (idleWith [] [.data []]).waiting = false ∧
      (idleWith [] [.data []]).link = [.data []] ∧ ([] : Bytes).length = 0) ∧
    ((idleWith [] [.data (List.replicate 17 0)]).link = [.data (List.replicate 17 0)] ∧
      (idleWith [] [.data (List.replicate 17 0)]).params.readSize < (List.replicate 17 (0 : Byte)).length) := by
  rw [List.length_replicate]; decide

theorem witness_RefusedMarkIsKept :
    (∃ t, exec .reset { State.reset with refused := true } = .next t ∧ t.refused = true) ∧
    (∃ t, core.run 1 { State.reset with refused := true } = .next t ∧ t.refused = true) ∧
    (∃ t, exec .reserved110 State.reset = .next t) ∧
    (∃ t, exec (.serialize []) State.reset = .next t) ∧
    (∃ t, exec .readCycle (idleWith [] [.data []]) = .next t) :=
  ⟨⟨_, rfl, rfl⟩, ⟨_, rfl, rfl⟩, ⟨_, rfl⟩, ⟨_, rfl⟩, ⟨_, rfl⟩⟩

theorem witness_ParametersNeverChange : (∃ t, exec .reset State.reset = .next t) ∧ (∃ t, step State.reset = .next t) :=
  ⟨⟨_, rfl⟩, ⟨_, rfl⟩⟩

/-- A state for ResetCommandResult and ResetStateValues. -/
theorem witness_reset : (idleWith [0x7E] []).fsm = .idle ∧ (idleWith [0x7E] []).waiting = false ∧
    ∃ t, exec .reset (idleWith [0x7E] []) = .next t := ⟨rfl, rfl, _, rfl⟩

theorem witness_BrokenHostDutyStops : (scanWith []).fsm ≠ .idle ∧ ({ State.reset with waiting := true } : State).waiting = true := by
  decide

/-- Chunks at both ends of the range and past them, for LinkDataTransition and ReadCycleIsExtract. -/
theorem witness_LinkDataTransition :
    (idleWith [] [.data [0x00]]).fsm = .idle ∧ (idleWith [] [.data [0x00]]).waiting = false ∧
    (idleWith [] [.data [0x00]]).link = [.data [0x00]] ∧ 1 ≤ ([0x00] : Bytes).length ∧
    ([0x00] : Bytes).length ≤ (idleWith [] [.data [0x00]]).params.readSize ∧
    (List.replicate 16 (0 : Byte)).length ≤ (idleWith [] []).params.readSize ∧
    (idleWith [] []).params.readSize < (List.replicate 17 (0 : Byte)).length ∧ ([] : Bytes).length = 0 ∧
    (idleWith [] []).acc.length ≤ 65538 := by decide

/-- Chunks of 16, 17 and 0 bytes. -/
theorem witness_LinkDataSelected :
    selectTransition (idleWith [] [.data (List.replicate 16 0)]) = some .linkData ∧
    (idleWith [] [.data []]).fsm = .idle ∧ (idleWith [] [.data []]).waiting = false ∧ ([] : Bytes).length = 0 ∧
    (idleWith [] [.data []]).link = [.data []] ∧
    (idleWith [] []).params.readSize < (List.replicate 17 (0 : Byte)).length := by decide

/-- Events for LinkClosedTransition, LinkErrorTransition and ReadCycleIsExtract. -/
theorem witness_link_failures :
    (idleWith [] [.empty]).link = [.empty] ∧ (idleWith [] [.closed]).link = [.closed] ∧
    (idleWith [] [.error []]).link = [.error []] ∧ (idleWith [] [.error []]).fsm = .idle ∧
    (idleWith [] [.error []]).waiting = false := by decide

theorem witness_ShortTransition : (scanWith [0x7E, 0, 0, 0]).fsm = .scan ∧ (scanWith [0x7E, 0, 0, 0]).acc.length < 5 := by decide

theorem witness_DropTransition : (scanWith [0, 0, 0, 0, 0]).fsm = .scan ∧ 5 ≤ (scanWith [0, 0, 0, 0, 0]).acc.length ∧
    byteAt (scanWith [0, 0, 0, 0, 0]).acc 0 ≠ 0x7E := by decide

/-- One byte short of its block. -/
theorem witness_WaitTransition : (scanWith [0x7E, 0, 2, 0, 0]).fsm = .scan ∧ 5 ≤ (scanWith [0x7E, 0, 2, 0, 0]).acc.length ∧
    byteAt (scanWith [0x7E, 0, 2, 0, 0]).acc 0 = 0x7E ∧
    (scanWith [0x7E, 0, 2, 0, 0]).acc.length <
      totalFrameSize (be16 (byteAt (scanWith [0x7E, 0, 2, 0, 0]).acc 1) (byteAt (scanWith [0x7E, 0, 2, 0, 0]).acc 2)) := by decide

/-- Exactly its block. -/
theorem witness_EmitTransition : (scanWith wire08).fsm = .scan ∧ 5 ≤ (scanWith wire08).acc.length ∧
    byteAt (scanWith wire08).acc 0 = 0x7E ∧
    totalFrameSize (be16 (byteAt (scanWith wire08).acc 1) (byteAt (scanWith wire08).acc 2)) ≤ (scanWith wire08).acc.length ∧
    ∃ f, deserializeBytes ((scanWith wire08).acc.take
      (totalFrameSize (be16 (byteAt (scanWith wire08).acc 1) (byteAt (scanWith wire08).acc 2)))) = .ok f :=
  ⟨by decide, by decide, by decide, by decide, frame08, by rfl⟩

/-- The block of length 0, which is too short. -/
theorem witness_DiscardTransition : (scanWith [0x7E, 0, 0, 0xFF, 0]).fsm = .scan ∧ 5 ≤ (scanWith [0x7E, 0, 0, 0xFF, 0]).acc.length ∧
    byteAt (scanWith [0x7E, 0, 0, 0xFF, 0]).acc 0 = 0x7E ∧ (scanWith [0x7E, 0, 0, 0xFF, 0]).blockSize ≤ 5 ∧
    deserializeBytes ((scanWith [0x7E, 0, 0, 0xFF, 0]).acc.take (scanWith [0x7E, 0, 0, 0xFF, 0]).blockSize) =
      .error .frameTooShort := ⟨by decide, by decide, by decide, by decide, by rfl⟩

theorem witness_CompactTransition : (finishWith [] []).fsm = .finish := by decide

theorem witness_ExactlyOneTransition :
    ((idleWith [] [.closed]).fsm = .idle ∧ (idleWith [] [.closed]).link ≠ []) ∧
    (∃ t, exec Transition.linkClosed.instr (idleWith [] [.closed]) = .next t) ∧
    (∀ ev rest, (idleWith [] [.closed]).link = ev :: rest → ev.wf (idleWith [] [.closed]).params.readSize = true) := by
  refine ⟨by decide, ⟨_, rfl⟩, ?_⟩
  intro ev rest h
  change [LinkEvent.closed] = ev :: rest at h
  injection h with h _
  subst h; rfl

theorem witness_FramerDecodeFailures :
    (byteAt [0x7E, 0, 0, 0xFF] 0 = 0x7E ∧ ([0x7E, 0, 0, 0xFF] : Bytes).length = totalFrameSize (lenField [0x7E, 0, 0, 0xFF])) ∧
    (byteAt wire08 0 = 0x7E ∧ wire08.length = totalFrameSize (lenField wire08)) ∧
    ((scanWith wire08).fsm = .scan ∧ 5 ≤ (scanWith wire08).acc.length ∧ byteAt (scanWith wire08).acc 0 = 0x7E ∧
      (scanWith wire08).blockSize ≤ (scanWith wire08).acc.length) := by decide

theorem witness_QuiescenceBetweenOperations :
    Quiescent [0, 0, 0, 0] ∧ Quiescent [0x7E, 0, 2, 0, 0] ∧
    ∃ t, exec .readCycle (idleWith [] [.closed]) = .next t := ⟨by decide, by decide, _, rfl⟩

theorem witness_AccumulatorBounds :
    (∃ t, exec .readCycle (idleWith [] [.data [0x00]]) = .next t) ∧ (∃ t, exec .frLinkData (idleWith [] [.data [0x00]]) = .next t) ∧
    ((scanWith []).fsm ≠ .idle ∧ ∃ t, exec Transition.short.instr (scanWith []) = .next t) :=
  ⟨⟨_, rfl⟩, ⟨_, rfl⟩, by decide, ⟨_, rfl⟩⟩

theorem witness_ReadCycleWaitsForTheLink :
    (State.reset.fsm = .idle ∧ State.reset.waiting = false ∧ State.reset.link = []) ∧
    (({ State.reset with waiting := true } : State).waiting = true ∧ ({ State.reset with waiting := true } : State).commands = []) := by
  decide

theorem witness_ReadCycleTerminates :
    (∃ t, exec .frDrop (scanWith [0, 0, 0, 0, 0]) = .next t) ∧ (∃ t, exec .frShort (scanWith []) = .next t) ∧
    (idleWith [] [.data [0x00]]).fsm = .idle ∧ (idleWith [] [.data [0x00]]).link = [.data [0x00]] :=
  ⟨⟨_, rfl⟩, ⟨_, rfl⟩, rfl, rfl⟩

/-- Two states that differ in every parameter and in the mark. -/
theorem witness_ReadCycleDeterminedByAccAndEvent :
    (idleWith [] [.data [0x00]]).fsm = .idle ∧ (idleWith [] [.data [0x00]]).waiting = false ∧
    (LinkEvent.data [0x00]).wf 16 = true ∧ (LinkEvent.data [0x00]).wf 1 = true ∧
    ({ idleWith [] [.data [0x00], .empty] with params := ⟨1, 0⟩, refused := true } : State).link = [.data [0x00], .empty] ∧
    ({ idleWith [] [.data [0x00], .empty] with params := ⟨1, 0⟩, refused := true } : State).acc = (idleWith [] [.data [0x00]]).acc := by
  decide

/-- A host that reads V7's frame behind noise, with failed reads between: for FramesIndependentOfChunking, ResyncFindsTheFrame and
FramesInStreamOrder. -/
theorem witness_reads_resync :
    ReadsEvents (readsOf [.data [0x41], .empty, .data wire08, .error []]) [.data [0x41], .empty, .data wire08, .error []] ∧
    (readsOf [.data [0x41], .empty, .data wire08, .error []]).acc = [] ∧
    streamBytes [.data [0x41], .empty, .data wire08, .error []] = [0x41] ++ serializeBody [0x08] ∧
    (∀ b ∈ ([0x41] : Bytes), b ≠ 0x7E) ∧ 3 ≤ 3 ∧ 3 ≤ 5 :=
  ⟨⟨by decide, by decide, by decide, by decide⟩, by decide, by decide, by decide, by decide, by decide⟩

theorem witness_PartialDelivery :
    ([0x7E, 0x00] : Bytes) ++ [0x01] ++ [0x08, 0xF7] = serializeBody [0x08] ∧
    ([0x7E, 0x00] : Bytes) ++ [0x01, 0x08, 0xF7] ++ [] = serializeBody [0x08] ∧
    (idleWith [0x7E, 0x00] [.data [0x01]]).acc = [0x7E, 0x00] ∧ (idleWith [0x7E, 0x00] [.data [0x01]]).link = [.data [0x01]] ∧
    ([0x01] : Bytes).length ≤ (idleWith [0x7E, 0x00] [.data [0x01]]).params.readSize := by decide

/-- V9: two frames of 16 bytes together fit one cycle; or they come in two. -/
theorem witness_ConcatenatedFrames :
    (serializeBody frameAP.body ++ serializeBody frameAP.body).length ≤
      (idleWith [] [.data (serializeBody frameAP.body ++ serializeBody frameAP.body)]).params.readSize ∧
    ReadsEvents (readsOf [.data wireAP, .data wireAP]) [.data wireAP, .data wireAP] ∧
    streamBytes [.data wireAP, .data wireAP] = serializeBody frameAP.body ++ serializeBody frameAP.body :=
  ⟨by decide, ⟨by decide, by decide, by decide, by decide⟩, by decide⟩

theorem witness_RecoveryAfterCorruption :
    (∀ b ∈ (extract [0x41, 0x42]).1, b ≠ 0x7E) ∧ (∀ b ∈ ([0x41, 0x42] : Bytes), b ≠ 0x7E) ∧
    (byteAt [0x7E, 0, 0, 0xFF] 0 = 0x7E ∧ ([0x7E, 0, 0, 0xFF] : Bytes).length = totalFrameSize (lenField [0x7E, 0, 0, 0xFF]) ∧
      (match deserializeBytes [0x7E, 0, 0, 0xFF] with | .ok _ => false | .error e => e == .frameTooShort) = true ∧
      5 ≤ (([0x7E, 0, 0, 0xFF] : Bytes) ++ [0]).length) := by decide

/-- P2: a false header with a valid frame behind it. -/
theorem witness_FalseStartStalls : 3 ≤ ([0x7E, 0x00, 0x0A] : Bytes).length ∧ byteAt [0x7E, 0x00, 0x0A] 0 = 0x7E ∧
    (([0x7E, 0x00, 0x0A] : Bytes) ++ wire08).length < totalFrameSize (lenField [0x7E, 0x00, 0x0A]) := by decide

theorem witness_StepKeepsTheInvariant : State.reset.Inv ∧ ∃ t, step State.reset = .next t :=
  ⟨⟨by decide, fun _ => by decide, by decide, fun _ => by decide, by decide, by decide, by decide,
    ⟨by decide, by decide⟩, by decide⟩, ⟨_, rfl⟩⟩

theorem witness_CodecCommandsArePure : ∃ b, Instr.serialize [] = .serialize b := ⟨_, rfl⟩

theorem witness_AccumulatorChanges :
    (∃ t, exec .readCycle (idleWith [] [.data [0x00]]) = .next t) ∧ (∃ t, exec (.checksum []) State.reset = .next t) ∧
    (∃ c, encodeCommand (.checksum []) = some c) ∧ Instr.checksum [] ≠ .reset ∧ Instr.checksum [] ≠ .readCycle :=
  ⟨⟨_, rfl⟩, ⟨_, rfl⟩, ⟨_, rfl⟩, by decide, by decide⟩

theorem witness_OneResultEach :
    (∃ c, encodeCommand .readCycle = some c) ∧ Instr.readCycle.wf = true ∧ (idleWith [] [.empty]).fsm = .idle ∧
    (idleWith [] [.empty]).waiting = false ∧
    (∃ ev rest, (idleWith [] [.empty]).link = ev :: rest ∧ ev.wf (idleWith [] [.empty]).params.readSize = true) :=
  ⟨⟨_, rfl⟩, by decide, by decide, by decide, _, _, rfl, rfl⟩

theorem witness_StatusCodes :
    ∃ t, exec (.deserialize []) State.reset = .next t ∧ t.results = State.reset.results ++ [.err .frameTooShort] := ⟨_, rfl, rfl⟩

theorem witness_FeedSplitsIntoChunks : 1 ≤ 1 ∧ 1 ≤ 16 := by decide

end Sys2Proof.Tests
end

/-! PROOFS. The statements of 10_state.md: the mark (R27), quiescence (R18), the bounds (R17) and the changes (R16) of the
accumulator, and the codec commands (R25). -/

namespace Sys2Proof

/-! ### What Extract leaves -/

/-- The loop stops only where it cannot act (R18). -/
theorem extract_fst_quiescent (x : Bytes) : Machine.Quiescent (extract x).1 := by
  induction x using extract_induction with
  | short x h => rw [extract_short h]; exact .inl h
  | drop x h h0 ih => rw [extract_drop h h0]; exact ih
  | wait x h h0 hT => rw [extract_wait h h0 hT]; exact .inr ⟨h0, hT⟩
  | emit x f h h0 hT hf ih => rw [extract_emit h h0 hT hf]; exact ih
  | discard x e h h0 hT hf ih => rw [extract_discard h h0 hT hf]; exact ih

/-- The loop removes bytes from the front only (R16). -/
theorem extract_fst_eq_drop (x : Bytes) : ∃ n, (extract x).1 = x.drop n := by
  induction x using extract_induction with
  | short x h => exact ⟨0, by rw [extract_short h, List.drop_zero]⟩
  | drop x h h0 ih =>
    obtain ⟨n, hn⟩ := ih
    exact ⟨1 + n, by rw [extract_drop h h0, hn, List.drop_drop]⟩
  | wait x h h0 hT => exact ⟨0, by rw [extract_wait h h0 hT, List.drop_zero]⟩
  | emit x f h h0 hT hf ih =>
    obtain ⟨n, hn⟩ := ih
    exact ⟨totalFrameSize (lenField x) + n, by rw [extract_emit h h0 hT hf, hn, List.drop_drop]⟩
  | discard x e h h0 hT hf ih =>
    obtain ⟨n, hn⟩ := ih
    exact ⟨totalFrameSize (lenField x) + n, by rw [extract_discard h h0 hT hf, hn, List.drop_drop]⟩

theorem extract_of_quiescent {x : Bytes} (h : Machine.Quiescent x) : extract x = (x, []) := by
  by_cases hm : x.length < minFrameLen
  · exact extract_short hm
  · obtain ⟨h0, hT⟩ := h.resolve_left hm
    exact extract_wait (by omega) h0 hT

/-- A quiescent sequence is shorter than the largest frame, of 65539 bytes (R17, R18). -/
theorem length_le_of_quiescent {x : Bytes} (h : Machine.Quiescent x) : x.length ≤ 65538 := by
  rcases h with h | ⟨_, hT⟩
  · unfold minFrameLen at h; omega
  · have := (lenField x).isLt
    unfold totalFrameSize at hT; omega

namespace Machine

/-! ### Read cycles -/

/-- The state after FR_LINK_DATA has appended an admitted chunk (R83). -/
def afterLinkData (c : Bytes) (s : State) : State := setFsm .scan (clearOut (accAppend c (fillScratch c (takeEvent s))))

@[simp] theorem afterLinkData_acc (c : Bytes) (s : State) : (afterLinkData c s).acc = s.acc ++ c := rfl
@[simp] theorem afterLinkData_fsm (c : Bytes) (s : State) : (afterLinkData c s).fsm = .scan := rfl
@[simp] theorem cycleEnd_acc (s : State) : (cycleEnd s).acc = (extract s.acc).1 := rfl

theorem runTransition_linkData {s : State} {c : Bytes} {rest : List LinkEvent} (hf : s.fsm = .idle)
    (hl : s.link = .data c :: rest) (ha : admitsChunk c s = true) :
    runTransition .linkData s = .next (afterLinkData c s) := by
  simp only [runTransition, execFrLinkData, hf, hl, ha, if_true]; rfl

theorem runTransition_linkClosed {s : State} {rest : List LinkEvent} (hf : s.fsm = .idle)
    (hl : s.link = .empty :: rest ∨ s.link = .closed :: rest) :
    runTransition .linkClosed s = .next (respond (.err .linkClosed) (takeEvent s)) := by
  rcases hl with hl | hl <;> simp only [runTransition, execFrLinkClosed, hf, hl]

theorem runTransition_linkError {s : State} {cause : Cause} {rest : List LinkEvent} (hf : s.fsm = .idle)
    (hl : s.link = .error cause :: rest) :
    runTransition .linkError s = .next (respond (.err (.linkReadError cause)) (takeEvent s)) := by
  simp only [runTransition, execFrLinkError, hf, hl]

/-- A read cycle of an admitted chunk in closed form: append, then Extract (R82, R98). -/
theorem runToIdle_data {s : State} {c : Bytes} {rest : List LinkEvent} (hf : s.fsm = .idle)
    (hl : s.link = .data c :: rest) (ha : admitsChunk c s = true) :
    runToIdle (cycleBound s) s = .next (cycleEnd (afterLinkData c s)) := by
  have hsel : selectTransition s = some .linkData := (selectTransition_idle hf).2 (.inl ⟨rfl, c, rest, hl, ha⟩)
  have hbound : cycleBound s = (s.acc ++ c).length + 2 + 1 := by simp [cycleBound, nextChunkLen, hl]
  rw [hbound, runToIdle_succ _ hsel (runTransition_linkData hf hl ha), if_neg (by simp)]
  exact runToIdle_scan _ _ _ (afterLinkData_acc c s) (afterLinkData_fsm c s) (Nat.le_refl _)

/-- A read cycle whose first transition leaves the framer idle is that transition. -/
theorem runToIdle_single {s t : State} {τ : Transition} (hsel : selectTransition s = some τ)
    (hr : runTransition τ s = .next t) (ht : t.fsm = .idle) : runToIdle (cycleBound s) s = .next t := by
  rw [cycleBound, runToIdle_succ _ hsel hr, if_pos ht]

theorem runToIdle_closed {s : State} {rest : List LinkEvent} (hf : s.fsm = .idle)
    (hl : s.link = .empty :: rest ∨ s.link = .closed :: rest) :
    runToIdle (cycleBound s) s = .next (respond (.err .linkClosed) (takeEvent s)) :=
  runToIdle_single ((selectTransition_idle hf).2 (.inr (.inl ⟨rfl, rest, hl⟩))) (runTransition_linkClosed hf hl) hf

theorem runToIdle_error {s : State} {cause : Cause} {rest : List LinkEvent} (hf : s.fsm = .idle)
    (hl : s.link = .error cause :: rest) :
    runToIdle (cycleBound s) s = .next (respond (.err (.linkReadError cause)) (takeEvent s)) :=
  runToIdle_single ((selectTransition_idle hf).2 (.inr (.inr ⟨rfl, cause, rest, hl⟩))) (runTransition_linkError hf hl) hf

/-- What READ_CYCLE does to the accumulator: nothing, or the append of the event's chunk and then Extract (R82, R98). -/
theorem execReadCycle_acc {s t : State} (h : execReadCycle s = .next t) :
    t.acc = s.acc ∨ ∃ c rest, s.link = .data c :: rest ∧ t.acc = (extract (s.acc ++ c)).1 := by
  obtain ⟨hfree, ⟨_, rfl⟩ | ⟨ev, rest, hl, ⟨_, rfl⟩ | ⟨ha, hr⟩⟩⟩ := execReadCycle_next h
  · exact .inl rfl
  · exact .inl rfl
  · have hf := ((framerFree_iff s).1 hfree).1
    cases ev with
    | data c =>
      obtain rfl := Host.Outcome.next.inj ((runToIdle_data hf hl ha).symm.trans hr)
      exact .inr ⟨c, rest, hl, by simp⟩
    | empty =>
      obtain rfl := Host.Outcome.next.inj ((runToIdle_closed hf (.inl hl)).symm.trans hr)
      exact .inl rfl
    | closed =>
      obtain rfl := Host.Outcome.next.inj ((runToIdle_closed hf (.inr hl)).symm.trans hr)
      exact .inl rfl
    | error cause =>
      obtain rfl := Host.Outcome.next.inj ((runToIdle_error hf hl).symm.trans hr)
      exact .inl rfl

/-! ### Transitions and the accumulator -/

/-- What a transition does to the accumulator: FR_LINK_DATA of an idle framer may append its chunk; whatever else happens
is a drop from the front (R16). -/
theorem runTransition_acc {τ : Transition} {s t : State} (h : runTransition τ s = .next t) :
    (τ = .linkData ∧ s.fsm = .idle ∧ ∃ c rest, s.link = .data c :: rest ∧ admitsChunk c s = true ∧ t.acc = s.acc ++ c) ∨
      ∃ n, t.acc = s.acc.drop n := by
  obtain ⟨hτ, hf, c, rest, hl, ha, rfl⟩ | ⟨_, _, c, rest, _, _, rfl⟩ | ⟨_, _, _, rfl⟩ | ⟨_, _, _, _, _, rfl⟩ |
    ⟨_, _, _, rfl⟩ | ⟨_, _, _, rfl⟩ | ⟨_, _, _, f, _, rfl⟩ | ⟨_, _, _, rfl⟩ | ⟨_, _, rfl⟩ := runTransition_next h
  · exact .inl ⟨hτ, hf, c, rest, hl, ha, rfl⟩
  · exact .inr ⟨0, rfl⟩
  · exact .inr ⟨0, rfl⟩
  · exact .inr ⟨0, rfl⟩
  · exact .inr ⟨0, rfl⟩
  · exact .inr ⟨1, rfl⟩
  · exact .inr ⟨s.blockSize, rfl⟩
  · exact .inr ⟨s.blockSize, rfl⟩
  · exact .inr ⟨0, rfl⟩

/-- An instruction other than RESET drops from the front of the accumulator, behind which READ_CYCLE and FR_LINK_DATA may have
put the event's chunk (R16). -/
theorem exec_acc {i : Instr} {s t : State} (h : exec i s = .next t) (h0 : i ≠ .reset) :
    ∃ n, t.acc = s.acc.drop n ∨
      ((i = .readCycle ∨ i = .frLinkData) ∧ ∃ c rest, s.link = .data c :: rest ∧ t.acc = (s.acc ++ c).drop n) := by
  obtain ⟨r, _, rfl⟩ | ⟨_, rfl⟩ | ⟨hi, _⟩ | ⟨rfl, _⟩ | ⟨τ, rfl, hr⟩ := exec_next h
  · exact ⟨0, .inl rfl⟩
  · exact ⟨0, .inl rfl⟩
  · exact absurd hi h0
  · obtain ht | ⟨c, rest, hl, ht⟩ := execReadCycle_acc h
    · exact ⟨0, .inl ht⟩
    · obtain ⟨n, hn⟩ := extract_fst_eq_drop (s.acc ++ c)
      exact ⟨n, .inr ⟨.inl rfl, c, rest, hl, ht.trans hn⟩⟩
  · obtain ⟨rfl, _, c, rest, hl, _, ht⟩ | ⟨n, ht⟩ := runTransition_acc hr
    · exact ⟨0, .inr ⟨.inr rfl, c, rest, hl, ht⟩⟩
    · exact ⟨n, .inl ht⟩

/-! ### The codec agent's commands -/

/-- A command of the codec agent answers the same in every state: one result, or a refusal (R25, R113). -/
theorem exec_of_not_framerOwned {i : Instr} (h : framerOwned i = false) :
    (∃ r, ∀ s, exec i s = .next (respond r s)) ∨ ∀ s, exec i s = .next (refuse s) := by
  cases i with
  | serialize b =>
    cases hb : admitsBody b with
    | true => exact .inl ⟨.bytes (serializeBody b), fun s => by simp [exec, execSerialize, answerIf, hb]⟩
    | false => exact .inr fun s => by simp [exec, execSerialize, answerIf, hb]
  | deserialize b => exact .inl ⟨deserializeResult b, fun _ => rfl⟩
  | checksum b => exact .inl ⟨.checksum (checksumOf b), fun _ => rfl⟩
  | frameSize n => exact .inl ⟨.size (BitVec.ofNat 17 (totalFrameSize n)), fun _ => rfl⟩
  | reserved110 => exact .inr fun _ => rfl
  | reserved111 => exact .inr fun _ => rfl
  | reset | readCycle | frLinkData | frLinkClosed | frLinkError | frShort | frDrop | frWait | frEmit | frDiscard
  | frCompact => exact absurd h (by decide)

/-- Of the commands, RESET and READ_CYCLE alone are the framer agent's (R119). -/
theorem framerOwned_of_command {i : Instr} (hcmd : ∃ c, encodeCommand i = some c) (h0 : i ≠ .reset) (h1 : i ≠ .readCycle) :
    framerOwned i = false := by
  obtain ⟨c, hc⟩ := hcmd
  cases i with
  | reset => exact absurd rfl h0
  | readCycle => exact absurd rfl h1
  | serialize | deserialize | checksum | frameSize | reserved110 | reserved111 => rfl
  | frLinkData | frLinkClosed | frLinkError | frShort | frDrop | frWait | frEmit | frDiscard | frCompact =>
    exact absurd hc (by simp [encodeCommand])

/-- A command of the codec agent neither writes nor reads the accumulator (R25). -/
theorem exec_ignores_acc {i : Instr} {s t : State} (hi : framerOwned i = false) (h : exec i s = .next t) :
    t.acc = s.acc ∧ ∀ a, exec i { s with acc := a } = .next { t with acc := a } := by
  obtain ⟨r, hr⟩ | hr := exec_of_not_framerOwned hi
  · obtain rfl := Host.Outcome.next.inj ((hr s).symm.trans h)
    exact ⟨rfl, fun a => hr _⟩
  · obtain rfl := Host.Outcome.next.inj ((hr s).symm.trans h)
    exact ⟨rfl, fun a => hr _⟩

/-! ### What every step and every run keeps -/

/-- What every instruction keeps, whatever the wait and the command port hold, every step keeps. -/
theorem step_keeps {P : State → Prop} (hexec : ∀ i s t, exec i s = .next t → P s → P t)
    (hwait : ∀ s, P s → P { s with waiting := false }) (hport : ∀ s cs, P s → P { s with commands := cs })
    {s t : State} (h : step s = .next t) (hs : P s) : P t := by
  obtain ⟨_, rfl⟩ | ⟨i, s', hfetch, hrun⟩ := step_next h
  · exact hs
  · refine hexec i s' t hrun ?_
    obtain rfl | ⟨_, rfl⟩ | ⟨_, _, _, hs', _⟩ := fetch_run hfetch
    · exact hs
    · exact hwait s hs
    · rw [hs']; exact hport s _ hs

/-- What every step keeps, every run keeps. -/
theorem run_keeps (M : Host.Core) {P : M.State → Prop} (hstep : ∀ s t, M.step s = .next t → P s → P t) (n : Nat) :
    ∀ s t, M.run n s = .next t → P s → P t := by
  induction n with
  | zero => intro s t h hs; obtain rfl := Host.Outcome.next.inj h; exact hs
  | succ n ih =>
    intro s t h hs
    rw [Host.Core.run] at h
    split at h
    · next s' hs' => exact ih s' t h (hstep s s' hs' hs)
    · exact absurd h (by simp)
    · exact absurd h (by simp)

/-! ### The mark of a refusal -/

theorem runTransition_keeps_refused {τ : Transition} {s t : State} (hs : s.refused = true)
    (h : runTransition τ s = .next t) : t.refused = true := by
  obtain ⟨_, _, _, _, _, _, rfl⟩ | ⟨_, _, _, _, _, _, rfl⟩ | ⟨_, _, _, rfl⟩ | ⟨_, _, _, _, _, rfl⟩ | ⟨_, _, _, rfl⟩ |
    ⟨_, _, _, rfl⟩ | ⟨_, _, _, _, _, rfl⟩ | ⟨_, _, _, rfl⟩ | ⟨_, _, rfl⟩ := runTransition_next h <;> simp [hs]

theorem exec_keeps_refused {i : Instr} {s t : State} (h : exec i s = .next t) (hs : s.refused = true) :
    t.refused = true := by
  obtain ⟨r, _, rfl⟩ | ⟨_, rfl⟩ | ⟨_, _, rfl⟩ | ⟨_, _, ⟨_, rfl⟩ | ⟨ev, rest, _, ⟨_, rfl⟩ | ⟨_, hr⟩⟩⟩ | ⟨τ, _, hr⟩ :=
    exec_next h
  · exact hs
  · rfl
  · exact hs
  · exact hs
  · rfl
  · exact runToIdle_keeps (P := fun s => s.refused = true) (fun _ _ _ => runTransition_keeps_refused) _ s t hs hr
  · exact runTransition_keeps_refused hs hr

theorem step_keeps_refused {s t : State} (h : step s = .next t) (hs : s.refused = true) : t.refused = true :=
  step_keeps (P := fun s => s.refused = true) (fun _ _ _ => exec_keeps_refused) (fun _ hs => hs) (fun _ _ hs => hs) h hs

theorem admitsBody_eq_false {b : Bytes} (h : b.length = 0 ∨ 65535 < b.length) : admitsBody b = false := by
  rw [admitsBody, ← Bool.not_eq_true, isFrameBuffer_iff]; omega

theorem admitsChunk_eq_false {c : Bytes} {s : State} (h : c.length = 0 ∨ s.params.readSize < c.length) :
    admitsChunk c s = false := by
  rw [← Bool.not_eq_true, admitsChunk_iff]; omega

theorem execSerialize_refused {b : Bytes} (h : b.length = 0 ∨ 65535 < b.length) (s : State) :
    execSerialize b s = .next (refuse s) := by
  rw [execSerialize, admitsBody_eq_false h]; rfl

/-- A READ_CYCLE that answers on a malformed chunk is the refusal of its event (R57, R113). -/
theorem execReadCycle_malformed {s t : State} {c : Bytes} {rest : List LinkEvent} (h : execReadCycle s = .next t)
    (hl : s.link = .data c :: rest) (hc : admitsChunk c s = false) : t = refuseEvent s := by
  obtain ⟨_, ⟨hnil, _⟩ | ⟨ev, _, hl', ⟨_, ht⟩ | ⟨ha, _⟩⟩⟩ := execReadCycle_next h
  · simp [hl] at hnil
  · exact ht
  · obtain ⟨rfl, _⟩ := List.cons.inj (hl.symm.trans hl')
    exact absurd (hc.symm.trans ha) (by decide)

/-! ### The statements -/

/-- Settles O23: every instruction keeps the mark, hence every step and, by induction on the length, every run; and each
refused command answers `refuse` or `refuseEvent`. -/
theorem refusedMarkIsKept : Obligations.RefusedMarkIsKept := by
  refine ⟨fun i s t h => exec_keeps_refused h, run_keeps core fun s t h => step_keeps_refused h, ?_⟩
  rintro i s t h (rfl | rfl | ⟨b, rfl, hb⟩ | ⟨rfl, c, rest, hl, hc⟩)
  · obtain rfl := Host.Outcome.next.inj h; rfl
  · obtain rfl := Host.Outcome.next.inj h; rfl
  · obtain rfl := Host.Outcome.next.inj ((execSerialize_refused hb s).symm.trans h); rfl
  · rw [execReadCycle_malformed h hl (admitsChunk_eq_false hc), refuseEvent_refused]

/-- Settles O40: READ_CYCLE leaves the accumulator as it was, or as Extract leaves it. -/
theorem quiescenceBetweenOperations : Obligations.QuiescenceBetweenOperations := by
  refine ⟨by decide, fun s t hq h => ?_, fun x => extract_of_quiescent⟩
  obtain ht | ⟨c, _, _, ht⟩ := execReadCycle_acc h <;> rw [ht]
  · exact hq
  · exact extract_fst_quiescent (s.acc ++ c)

/-- Settles O41: what Extract leaves is quiescent, so at most 65538 bytes; only FR_LINK_DATA appends, and an admitted chunk has
at most READ_SIZE bytes. -/
theorem accumulatorBounds : Obligations.AccumulatorBounds := by
  have hextract (x : Bytes) : (extract x).1.length ≤ 65538 := length_le_of_quiescent (extract_fst_quiescent x)
  refine ⟨by decide, fun s t hs h => ?_, fun s t hs h => ?_, fun τ s t hf h => ?_, hextract⟩
  · obtain ht | ⟨c, _, _, ht⟩ := execReadCycle_acc h <;> rw [ht]
    · exact hs
    · exact hextract (s.acc ++ c)
  · obtain ⟨_, _, c, _, _, ha, ht⟩ | ⟨n, ht⟩ := runTransition_acc (τ := .linkData) h <;> rw [ht]
    · have hc := ((admitsChunk_iff c s).1 ha).2
      rw [List.length_append]; omega
    · rw [List.length_drop]; omega
  · rw [exec_transition] at h
    obtain ⟨_, hidle, _⟩ | ⟨n, ht⟩ := runTransition_acc h
    · exact absurd hidle hf
    · rw [ht, List.length_drop]; omega

/-- Settles O55: every command of the codec agent answers so. -/
theorem codecCommandsArePure : Obligations.CodecCommandsArePure := by
  rintro i (⟨b, rfl⟩ | ⟨n, rfl⟩ | ⟨b, rfl⟩ | ⟨b, rfl⟩) <;> exact exec_of_not_framerOwned rfl

/-- Settles O56: RESET empties the accumulator, a codec command ignores it, and the rest is an append and drops. -/
theorem accumulatorChanges : Obligations.AccumulatorChanges := by
  refine fun i s t h => ⟨?_, fun h0 => ?_, fun hcmd h0 h1 => exec_ignores_acc (framerOwned_of_command hcmd h0 h1) h⟩
  · rintro rfl
    rw [(execReset_next h).2, respond_acc, clearFramer_acc]
  · obtain ⟨n, ht | ⟨hi, c, rest, hl, ht⟩⟩ := exec_acc h h0
    · exact ⟨[], n, by rw [ht, List.append_nil], .inl rfl⟩
    · exact ⟨c, n, ht, .inr ⟨hi, rest, hl⟩⟩

end Machine
end Sys2Proof

/-! PROOFS. The statement of 20_memory.md: the frames returned stand in the stream in the order returned (R41). -/

namespace Sys2Proof

/-! ### Wire bytes and the decoded frame -/

theorem eq_byteAt_cons_drop_three {b : Bytes} (h : 3 ≤ b.length) :
    b = byteAt b 0 :: byteAt b 1 :: byteAt b 2 :: b.drop 3 := by
  rcases b with _ | ⟨x, _ | ⟨y, _ | ⟨z, w⟩⟩⟩
  · simp at h
  · simp at h
  · simp at h
  · rfl

/-- What decodes is the wire form of the frame decoded (R77). -/
theorem serializeFrame_of_deserializeBytes {b : Bytes} {f : Frame} (h : deserializeBytes b = .ok f) :
    serializeFrame f = b := by
  obtain ⟨h5, h0, _, hlen, hsum, rfl⟩ := deserializeBytes_ok h
  calc serializeFrame _
      = startDelim :: byteAt b 1 :: byteAt b 2 :: ((b.drop 3).take (b.length - 4) ++ [byteAt b (b.length - 1)]) := by
        simp only [serializeFrame, hsum]
        rw [hlen, lenField, hi8_be16, lo8_be16]
    _ = byteAt b 0 :: byteAt b 1 :: byteAt b 2 :: b.drop 3 := by rw [← drop_three_eq b h5, h0]
    _ = b := (eq_byteAt_cons_drop_three (by omega)).symm

/-! ### Frames in stream order -/

namespace Machine

/-- The frames `fs` stand in the stream `x` end to end in their order, with gaps between, and behind them `rest` ends it
(R41). The arguments are the stream, the frames, the rest. -/
inductive InStreamOrder : Bytes → List Frame → Bytes → Prop where
  | rest (x : Bytes) : InStreamOrder x [] x
  | gap (g : Bytes) {x fs r} : InStreamOrder x fs r → InStreamOrder (g ++ x) fs r
  | frame (f : Frame) {x fs r} : InStreamOrder x fs r → InStreamOrder (serializeFrame f ++ x) (f :: fs) r

namespace InStreamOrder

/-- `InStreamOrder` in the words of the statements: a layout of the stream. -/
theorem exists_layOut {x r : Bytes} {fs : List Frame} (h : InStreamOrder x fs r) :
    ∃ segs tail, segs.map Prod.snd = fs ∧ x = layOut segs tail ∧ r <:+ tail := by
  induction h with
  | rest x => exact ⟨[], x, rfl, rfl, List.suffix_refl x⟩
  | gap g _ ih =>
    obtain ⟨segs, tail, rfl, rfl, hr⟩ := ih
    cases segs with
    | nil => exact ⟨[], g ++ tail, rfl, rfl, hr.trans (List.suffix_append g tail)⟩
    | cons seg segs => exact ⟨(g ++ seg.1, seg.2) :: segs, tail, rfl, by simp [layOut], hr⟩
  | frame f _ ih =>
    obtain ⟨segs, tail, rfl, rfl, hr⟩ := ih
    exact ⟨([], f) :: segs, tail, rfl, rfl, hr⟩

/-- Bytes that arrive later lengthen the rest. -/
theorem append_right {x r : Bytes} {fs : List Frame} (h : InStreamOrder x fs r) (y : Bytes) :
    InStreamOrder (x ++ y) fs (r ++ y) := by
  induction h with
  | rest x => exact .rest (x ++ y)
  | gap g _ ih => rw [List.append_assoc]; exact .gap g ih
  | frame f _ ih => rw [List.append_assoc]; exact .frame f ih

/-- The frames found in the rest stand behind those found before. -/
theorem trans {x r q : Bytes} {fs gs : List Frame} (h : InStreamOrder x fs r) (h' : InStreamOrder r gs q) :
    InStreamOrder x (fs ++ gs) q := by
  induction h with
  | rest x => exact h'
  | gap g _ ih => exact .gap g (ih h')
  | frame f _ ih => exact .frame f (ih h')

/-- Bytes passed over at the front are a gap. -/
theorem of_drop {x r : Bytes} {fs : List Frame} (n : Nat) (h : InStreamOrder (x.drop n) fs r) : InStreamOrder x fs r := by
  rw [← List.take_append_drop n x]; exact .gap _ h

end InStreamOrder

/-- Extract finds frames in stream order: it passes over a dropped byte and a discarded block, and an emitted block is its
frame's wire form (R98). -/
theorem extract_inStreamOrder (x : Bytes) : InStreamOrder x (extract x).2 (extract x).1 := by
  induction x using extract_induction with
  | short x h => rw [extract_short h]; exact .rest x
  | wait x h h0 hT => rw [extract_wait h h0 hT]; exact .rest x
  | drop x h h0 ih => rw [extract_drop h h0]; exact .of_drop 1 ih
  | discard x e h h0 hT hf ih => rw [extract_discard h h0 hT hf]; exact .of_drop _ ih
  | emit x f h h0 hT hf ih =>
    have hframe := InStreamOrder.frame f ih
    rw [serializeFrame_of_deserializeBytes hf, List.take_append_drop] at hframe
    rw [extract_emit h h0 hT hf]
    exact hframe

/-! ### A host that reads -/

/-- READ_CYCLE of an idle framer on an admitted event is the run of transitions to IDLE (R82). -/
theorem execReadCycle_admitted {s : State} {ev : LinkEvent} {rest : List LinkEvent} (hf : s.fsm = .idle)
    (hw : s.waiting = false) (hl : s.link = ev :: rest) (ha : admitsEvent ev s = true) :
    execReadCycle s = runToIdle (cycleBound s) s := by
  rw [execReadCycle, if_pos ((framerFree_iff s).2 ⟨hf, hw⟩), hl]
  exact if_pos ha

/-- What a read cycle leaves of the accumulator `acc` and an admitted event: of data, what Extract leaves (R98); the other events
change nothing (R84, R85). -/
def cycleAcc (acc : Bytes) : LinkEvent → Bytes
  | .data c => (extract (acc ++ c)).1
  | .empty => acc
  | .closed => acc
  | .error _ => acc

/-- What a read cycle returns for the accumulator `acc` and an admitted event: of data, the frames of Extract (R98); of the other
events, the link's error (R84, R85). -/
def cycleResult (acc : Bytes) : LinkEvent → Result
  | .data c => .frames (extract (acc ++ c)).2
  | .empty => .err .linkClosed
  | .closed => .err .linkClosed
  | .error cause => .err (.linkReadError cause)

/-- READ_CYCLE of an idle framer on an admitted event takes the event, returns `cycleResult` and leaves `cycleAcc`. -/
theorem execReadCycle_event {s : State} {ev : LinkEvent} {rest : List LinkEvent} (hf : s.fsm = .idle)
    (hw : s.waiting = false) (hl : s.link = ev :: rest) (ha : admitsEvent ev s = true) :
    ∃ t, execReadCycle s = .next t ∧ t.fsm = .idle ∧ t.waiting = false ∧ t.commands = s.commands ∧ t.link = rest ∧
      t.params = s.params ∧ t.acc = cycleAcc s.acc ev ∧ t.results = s.results ++ [cycleResult s.acc ev] := by
  have htail : s.link.tail = rest := by rw [hl]; rfl
  rw [execReadCycle_admitted hf hw hl ha]
  cases ev with
  | data c => exact ⟨_, runToIdle_data hf hl ha, rfl, rfl, rfl, htail, rfl, rfl, rfl⟩
  | empty => exact ⟨_, runToIdle_closed hf (.inl hl), hf, rfl, rfl, htail, rfl, rfl, rfl⟩
  | closed => exact ⟨_, runToIdle_closed hf (.inr hl), hf, rfl, rfl, htail, rfl, rfl, rfl⟩
  | error cause => exact ⟨_, runToIdle_error hf hl, hf, rfl, rfl, htail, rfl, rfl, rfl⟩

/-- The frames a read cycle returns stand in stream order in what was held followed by what was read, before what it leaves. -/
theorem cycle_inStreamOrder (acc : Bytes) (ev : LinkEvent) :
    InStreamOrder (acc ++ eventBytes ev) (resultFrames (cycleResult acc ev)) (cycleAcc acc ev) := by
  cases ev with
  | data c => exact extract_inStreamOrder (acc ++ c)
  | empty | closed | error => rw [eventBytes, List.append_nil]; exact .rest acc

/-- An idle framer's step on a READ_CYCLE at the command port takes it off and runs it. -/
theorem step_readCommand {s : State} {cs : List Command} (hf : s.fsm = .idle) (hw : s.waiting = false)
    (hc : s.commands = readCommand :: cs) : step s = execReadCycle { s with commands := cs } := by
  have hfetch : fetch s = .run .readCycle { s with commands := cs } := by
    simp [fetch, hf, hw, fetchCommand, hc, show decodeCommand readCommand = .ok .readCycle from rfl]
  rw [step, hfetch]
  rfl

/-- One step of a host that reads is the READ_CYCLE of the first event, and leaves the host reading the others. -/
theorem ReadsEvents.step_cons {s : State} {ev : LinkEvent} {evs : List LinkEvent} (h : ReadsEvents s (ev :: evs)) :
    ∃ t, step s = .next t ∧ ReadsEvents t evs ∧ t.acc = cycleAcc s.acc ev ∧
      t.results = s.results ++ [cycleResult s.acc ev] := by
  obtain ⟨⟨hf, hw⟩, hc, hl, hwf⟩ := h
  obtain ⟨t, hexec, htf, htw, htc, htl, htp, hacc, hres⟩ :=
    execReadCycle_event (s := { s with commands := List.replicate evs.length readCommand }) hf hw hl
      (hwf ev List.mem_cons_self)
  have hrest : ∀ e ∈ evs, e.wf t.params.readSize = true := by
    rw [htp]; exact fun e he => hwf e (List.mem_cons_of_mem ev he)
  exact ⟨t, (step_readCommand hf hw hc).trans hexec, ⟨⟨htf, htw⟩, htc, htl, hrest⟩, hacc, hres⟩

/-- The read cycles over any events return frames that stand in stream order in what was held followed by what was read, before
what is held at the end (R41). -/
theorem ReadsEvents.run_inStreamOrder (evs : List LinkEvent) : ∀ s : State, ReadsEvents s evs →
    ∃ t rs, core.run evs.length s = .next t ∧ t.results = s.results ++ rs ∧
      InStreamOrder (s.acc ++ streamBytes evs) (framesOf rs) t.acc := by
  induction evs with
  | nil =>
    intro s _
    have hstream : s.acc ++ streamBytes [] = s.acc := List.append_nil s.acc
    exact ⟨s, [], rfl, (List.append_nil s.results).symm, by rw [hstream]; exact .rest s.acc⟩
  | cons ev evs ih =>
    intro s h
    obtain ⟨s', hstep, hreads, hacc, hres⟩ := h.step_cons
    obtain ⟨t, rs, hrun, hress, hlater⟩ := ih s' hreads
    have hfirst := (cycle_inStreamOrder s.acc ev).append_right (streamBytes evs)
    rw [← hacc, List.append_assoc] at hfirst
    exact ⟨t, cycleResult s.acc ev :: rs, (run_succ core evs.length s s' hstep).trans hrun,
      by rw [hress, hres, List.append_assoc]; rfl, hfirst.trans hlater⟩

/-! ### The statement -/

/-- Settles O52: Extract finds its frames in stream order, and, by induction on the events, what one cycle leaves is the front of
the stream the later cycles read. -/
theorem framesInStreamOrder : Obligations.FramesInStreamOrder := by
  intro s evs h hacc
  obtain ⟨t, rs, hrun, hres, horder⟩ := ReadsEvents.run_inStreamOrder evs s h
  rw [hacc, List.nil_append] at horder
  obtain ⟨segs, tail, hsegs, hx, hr⟩ := horder.exists_layOut
  exact ⟨t, rs, segs, tail, hrun, hres, hsegs, hx, hr⟩

end Machine
end Sys2Proof

/-! PROOFS. The statements of 30_encoding.md: the codes (R55), the wire frame (R46), refusals (R113), the transitions (R59, R81),
the one result of each command (R58) and FEED (R61). -/

namespace Sys2Proof

/-! ### The wire bytes of a body -/

theorem serializeBody_eq (body : Bytes) : serializeBody body =
    startDelim :: hi8 (BitVec.ofNat 16 body.length) :: lo8 (BitVec.ofNat 16 body.length) :: (body ++ [checksumOf body]) := rfl

theorem hi8_ofNat {n : Nat} (h : n ≤ 65535) : hi8 (BitVec.ofNat 16 n) = BitVec.ofNat 8 (n / 256) := by
  rw [hi8, BitVec.toNat_ofNat, Nat.mod_eq_of_lt (by omega)]

theorem lo8_ofNat (n : Nat) : lo8 (BitVec.ofNat 16 n) = BitVec.ofNat 8 (n % 256) := by
  rw [lo8, BitVec.toNat_ofNat, Nat.mod_mod_of_dvd n (by decide)]

/-- The checksum in the words of R13 and R63, over a list sum. -/
theorem checksumOf_eq_sum (b : Bytes) : checksumOf b = 0xFF - BitVec.ofNat 8 ((b.map BitVec.toNat).sum % 256) := by
  rw [checksumOf, sum8, sumNat_eq_sum]

namespace Machine

/-! ### The transition whose row applies -/

/-- The transition of R59's row for a link event. -/
def eventTransition : LinkEvent → Transition
  | .data _ => .linkData
  | .empty => .linkClosed
  | .closed => .linkClosed
  | .error _ => .linkError

/-- The transition whose row of R59 the state is in. A chunk out of range is in FR_LINK_DATA's row here, which refuses it (R83);
`selectTransition` selects none for it. -/
def rowTransition (s : State) : Option Transition :=
  match s.fsm with
  | .idle => s.link.head?.map eventTransition
  | .scan => some (selectScan s.acc)
  | .finish => some .compact

theorem rowTransition_idle {s : State} (h : s.fsm = .idle) : rowTransition s = s.link.head?.map eventTransition := by
  rw [rowTransition, h]

theorem rowTransition_scan {s : State} (h : s.fsm = .scan) : rowTransition s = some (selectScan s.acc) := by
  rw [rowTransition, h]

theorem rowTransition_finish {s : State} (h : s.fsm = .finish) : rowTransition s = some .compact := by
  rw [rowTransition, h]

/-- On admitted events the framer selects the row's transition (R59, R83). -/
theorem selectTransition_eq_rowTransition {s : State}
    (h : s.fsm = .idle → ∀ ev rest, s.link = ev :: rest → ev.wf s.params.readSize = true) :
    selectTransition s = rowTransition s := by
  cases hf : s.fsm with
  | scan => rw [selectTransition_scan hf, rowTransition_scan hf]
  | finish => rw [selectTransition_finish hf, rowTransition_finish hf]
  | idle =>
    rw [rowTransition_idle hf]
    rcases hl : s.link with _ | ⟨ev, rest⟩
    · simp [selectTransition, hf, hl]
    · have hwf := h hf ev rest hl
      rw [List.head?_cons, Option.map_some, selectTransition_idle hf]
      cases ev with
      | data c => exact .inl ⟨rfl, c, rest, hl, hwf⟩
      | empty => exact .inr (.inl ⟨rfl, rest, .inl hl⟩)
      | closed => exact .inr (.inl ⟨rfl, rest, .inr hl⟩)
      | error cause => exact .inr (.inr ⟨rfl, cause, rest, hl⟩)

/-- FR_LINK_DATA refuses a chunk out of range (R83, R113). -/
theorem runTransition_linkData_malformed {s : State} {c : Bytes} {rest : List LinkEvent} (hf : s.fsm = .idle)
    (hl : s.link = .data c :: rest) (ha : admitsChunk c s = false) : runTransition .linkData s = .next (refuseEvent s) := by
  simp [runTransition, execFrLinkData, hf, hl, ha]

/-- The transition of the link event answers a next state, whether or not the event is admitted. -/
theorem runTransition_event {s : State} {ev : LinkEvent} {rest : List LinkEvent} (hf : s.fsm = .idle)
    (hl : s.link = ev :: rest) : ∃ t, runTransition (eventTransition ev) s = .next t := by
  cases ev with
  | data c =>
    cases ha : admitsChunk c s with
    | true => exact ⟨_, runTransition_linkData hf hl ha⟩
    | false => exact ⟨_, runTransition_linkData_malformed hf hl ha⟩
  | empty => exact ⟨_, runTransition_linkClosed hf (.inl hl)⟩
  | closed => exact ⟨_, runTransition_linkClosed hf (.inr hl)⟩
  | error cause => exact ⟨_, runTransition_linkError hf hl⟩

/-- The transition selected in the extraction loop answers a next state (R59). -/
theorem runTransition_selectScan {s : State} (hf : s.fsm = .scan) : ∃ t, runTransition (selectScan s.acc) s = .next t := by
  obtain ⟨ht, _⟩ | ⟨ht, _⟩ | ⟨ht, _⟩ | ⟨ht, _, _, _, f, hd⟩ | ⟨ht, _⟩ := selectScan_cases s.acc <;> rw [ht]
  · exact ⟨_, scanTransition_selected hf ht⟩
  · exact ⟨_, scanTransition_selected hf ht⟩
  · exact ⟨_, scanTransition_selected hf ht⟩
  · have hblock : deserializeBytes s.block = .ok f := hd
    exact ⟨_, by rw [runTransition, execFrEmit, hblock, scanTransition_selected hf ht]⟩
  · exact ⟨_, scanTransition_selected hf ht⟩

/-- A transition answers a next state exactly where its row is the state's (R59). -/
theorem runTransition_isNext_iff (τ : Transition) (s : State) :
    (∃ t, runTransition τ s = .next t) ↔ rowTransition s = some τ := by
  constructor
  · rintro ⟨t, h⟩
    obtain ⟨rfl, hf, c, rest, hl, _⟩ | ⟨rfl, hf, c, rest, hl, _⟩ | ⟨rfl, hf, ⟨rest, hl | hl⟩, _⟩ | ⟨rfl, hf, _, rest, hl, _⟩ |
      ⟨_, hf, ht, _⟩ | ⟨_, hf, ht, _⟩ | ⟨_, hf, ht, _⟩ | ⟨_, hf, ht, _⟩ | ⟨rfl, hf, _⟩ := runTransition_next h
    iterate 5 rw [rowTransition_idle hf, hl]; rfl
    iterate 4 rw [rowTransition_scan hf, ht]
    exact rowTransition_finish hf
  · intro h
    cases hf : s.fsm with
    | idle =>
      rw [rowTransition_idle hf, Option.map_eq_some_iff] at h
      obtain ⟨ev, hev, rfl⟩ := h
      exact runTransition_event hf (List.eq_cons_of_mem_head? hev)
    | scan =>
      obtain rfl := Option.some.inj ((rowTransition_scan hf).symm.trans h)
      exact runTransition_selectScan hf
    | finish =>
      obtain rfl := Option.some.inj ((rowTransition_finish hf).symm.trans h)
      exact ⟨_, by rw [runTransition, execFrCompact, hf]⟩

/-- `runTransition_isNext_iff` for the transition's instruction. -/
theorem exec_instr_isNext_iff (τ : Transition) (s : State) :
    (∃ t, exec τ.instr s = .next t) ↔ rowTransition s = some τ := by
  rw [exec_transition, runTransition_isNext_iff]

/-- The condition of a transition's row (R59), over the state's control state, link event and accumulator. -/
def RowCondition (τ : Transition) (s : State) : Prop :=
  match τ with
  | .linkData => s.fsm = .idle ∧ ∃ c rest, s.link = .data c :: rest
  | .linkClosed => s.fsm = .idle ∧ ∃ rest, s.link = .empty :: rest ∨ s.link = .closed :: rest
  | .linkError => s.fsm = .idle ∧ ∃ cause rest, s.link = .error cause :: rest
  | .short => s.fsm = .scan ∧ s.acc.length < 5
  | .drop => s.fsm = .scan ∧ 5 ≤ s.acc.length ∧ byteAt s.acc 0 ≠ 0x7E
  | .wait => s.fsm = .scan ∧ 5 ≤ s.acc.length ∧ byteAt s.acc 0 = 0x7E ∧ s.acc.length < s.blockSize
  | .emit => s.fsm = .scan ∧ 5 ≤ s.acc.length ∧ byteAt s.acc 0 = 0x7E ∧ s.blockSize ≤ s.acc.length ∧
      ∃ f, deserializeBytes (s.acc.take s.blockSize) = .ok f
  | .discard => s.fsm = .scan ∧ 5 ≤ s.acc.length ∧ byteAt s.acc 0 = 0x7E ∧ s.blockSize ≤ s.acc.length ∧
      ∃ e, deserializeBytes (s.acc.take s.blockSize) = .error e
  | .compact => s.fsm = .finish

theorem rowCondition_of_rowTransition {τ : Transition} {s : State} (h : rowTransition s = some τ) : RowCondition τ s := by
  cases hf : s.fsm with
  | idle =>
    rw [rowTransition_idle hf, Option.map_eq_some_iff] at h
    obtain ⟨ev, hev, rfl⟩ := h
    have hl := List.eq_cons_of_mem_head? hev
    cases ev with
    | data c => exact ⟨hf, c, _, hl⟩
    | empty => exact ⟨hf, _, .inl hl⟩
    | closed => exact ⟨hf, _, .inr hl⟩
    | error cause => exact ⟨hf, cause, _, hl⟩
  | scan =>
    obtain rfl := Option.some.inj ((rowTransition_scan hf).symm.trans h)
    obtain ⟨ht, hrow⟩ | ⟨ht, hrow⟩ | ⟨ht, hrow⟩ | ⟨ht, hrow⟩ | ⟨ht, hrow⟩ := selectScan_cases s.acc <;> rw [ht] <;>
      exact ⟨hf, hrow⟩
  | finish =>
    obtain rfl := Option.some.inj ((rowTransition_finish hf).symm.trans h)
    exact hf

theorem rowTransition_of_rowCondition {τ : Transition} {s : State} (h : RowCondition τ s) : rowTransition s = some τ := by
  cases τ with
  | linkData => obtain ⟨hf, c, rest, hl⟩ := h; rw [rowTransition_idle hf, hl]; rfl
  | linkClosed => obtain ⟨hf, rest, hl | hl⟩ := h <;> rw [rowTransition_idle hf, hl] <;> rfl
  | linkError => obtain ⟨hf, cause, rest, hl⟩ := h; rw [rowTransition_idle hf, hl]; rfl
  | short => obtain ⟨hf, h5⟩ := h; rw [rowTransition_scan hf, selectScan_short h5]
  | drop => obtain ⟨hf, h5, h0⟩ := h; rw [rowTransition_scan hf, selectScan_drop h5 h0]
  | wait => obtain ⟨hf, h5, h0, hT⟩ := h; rw [rowTransition_scan hf, selectScan_wait h5 h0 hT]
  | emit => obtain ⟨hf, h5, h0, hT, f, hd⟩ := h; rw [rowTransition_scan hf, selectScan_emit h5 h0 hT hd]
  | discard => obtain ⟨hf, h5, h0, hT, e, hd⟩ := h; rw [rowTransition_scan hf, selectScan_discard h5 h0 hT hd]
  | compact => exact rowTransition_finish h

theorem rowTransition_eq_some_iff (τ : Transition) (s : State) : rowTransition s = some τ ↔ RowCondition τ s :=
  ⟨rowCondition_of_rowTransition, rowTransition_of_rowCondition⟩

/-- A row applies wherever an idle framer has an event (R59). -/
theorem exists_rowTransition {s : State} (h : s.fsm = .idle → s.link ≠ []) : ∃ τ, rowTransition s = some τ := by
  cases hf : s.fsm with
  | idle =>
    obtain ⟨ev, rest, hl⟩ := List.exists_cons_of_ne_nil (h hf)
    exact ⟨eventTransition ev, by rw [rowTransition_idle hf, hl]; rfl⟩
  | scan => exact ⟨_, rowTransition_scan hf⟩
  | finish => exact ⟨_, rowTransition_finish hf⟩

/-! ### The refusal of a link event -/

/-- READ_CYCLE of an idle framer refuses an event that is not admitted (R57, R113). -/
theorem execReadCycle_refuses {s : State} {ev : LinkEvent} {rest : List LinkEvent} (hf : s.fsm = .idle)
    (hw : s.waiting = false) (hl : s.link = ev :: rest) (ha : admitsEvent ev s = false) :
    execReadCycle s = .next (refuseEvent s) := by
  rw [execReadCycle, if_pos ((framerFree_iff s).2 ⟨hf, hw⟩), hl]
  exact if_neg (by simp [ha])

theorem refuseEvent_eq {s : State} (hw : s.waiting = false) :
    refuseEvent s = { s with refused := true, link := s.link.tail } := by
  simp [refuseEvent, refuse, takeEvent, hw]

/-! ### FEED -/

theorem chunksOf_nil (fuel n : Nat) : chunksOf fuel n [] = [] := by
  cases fuel <;> rfl

theorem chunksOf_flatten {n : Nat} (hn : 1 ≤ n) (fuel : Nat) : ∀ b : Bytes, b.length ≤ fuel → (chunksOf fuel n b).flatten = b := by
  induction fuel with
  | zero => intro b hb; exact (List.eq_nil_of_length_eq_zero (Nat.le_zero.mp hb)).symm
  | succ fuel ih =>
    intro b hb
    rw [chunksOf]
    split
    · next he => exact (List.isEmpty_iff.1 he).symm
    · rw [List.flatten_cons, ih (b.drop n) (by rw [List.length_drop]; omega), List.take_append_drop]

/-- Each chunk has 1 to `n` bytes. -/
theorem chunksOf_length {n : Nat} (hn : 1 ≤ n) (fuel : Nat) :
    ∀ b : Bytes, ∀ c ∈ chunksOf fuel n b, 1 ≤ c.length ∧ c.length ≤ n := by
  induction fuel with
  | zero => intro b c hc; exact absurd hc List.not_mem_nil
  | succ fuel ih =>
    intro b c hc
    rw [chunksOf] at hc
    split at hc
    · exact absurd hc List.not_mem_nil
    · next he =>
      have hb : 0 < b.length := List.length_pos_iff.2 (by simpa using he)
      obtain rfl | hc := List.mem_cons.1 hc
      · rw [List.length_take]; omega
      · exact ih (b.drop n) c hc

/-- A chunk with another one behind it is full. -/
theorem chunksOf_full (n fuel : Nat) : ∀ (b : Bytes) (k : Nat), k + 1 < (chunksOf fuel n b).length →
    ∃ c, (chunksOf fuel n b)[k]? = some c ∧ c.length = n := by
  induction fuel with
  | zero => intro b k hk; exact absurd hk (by simp [chunksOf])
  | succ fuel ih =>
    intro b k hk
    rw [chunksOf] at hk ⊢
    split at hk
    · exact absurd hk (by simp)
    · next he =>
      rw [if_neg he]
      rw [List.length_cons, Nat.add_lt_add_iff_right] at hk
      cases k with
      | succ k => exact ih (b.drop n) k hk
      | zero =>
        have hrest : n < b.length := by
          by_contra hle
          rw [List.drop_eq_nil_of_le (by omega), chunksOf_nil] at hk
          exact absurd hk (by simp)
        exact ⟨b.take n, rfl, by rw [List.length_take]; omega⟩

/-! ### The one result of a command -/

/-- The form of the result that a command's operation has (R58). The other instructions have none. -/
def ResultForm (r : Result) : Instr → Prop
  | .reset => r = .done
  | .readCycle => (∃ out, r = .frames out) ∨ ∃ e, r = .err e
  | .serialize _ => ∃ w, r = .bytes w
  | .deserialize _ => (∃ f, r = .frame f) ∨ ∃ e, r = .err e
  | .checksum _ => ∃ c, r = .checksum c
  | .frameSize _ => ∃ v : BitVec 17, r = .size v ∧ 4 ≤ v.toNat ∧ v.toNat ≤ 65539
  | _ => False

theorem cycleResult_form (acc : Bytes) (ev : LinkEvent) : ResultForm (cycleResult acc ev) .readCycle := by
  cases ev with
  | data c => exact .inl ⟨_, rfl⟩
  | empty | closed | error => exact .inr ⟨_, rfl⟩

theorem deserializeResult_form (b : Bytes) : ResultForm (deserializeResult b) (.deserialize b) := by
  rw [deserializeResult]
  split
  · exact .inl ⟨_, rfl⟩
  · exact .inr ⟨_, rfl⟩

/-- Every frame size fits in 17 bits (R65). -/
theorem totalFrameSize_ofNat_toNat (n : U16) : (BitVec.ofNat 17 (totalFrameSize n)).toNat = n.toNat + 4 := by
  have := n.isLt
  rw [totalFrameSize, BitVec.toNat_ofNat, Nat.mod_eq_of_lt (by omega)]
  omega

/-- An admitted command, issued to an idle framer, and for READ_CYCLE with an admitted event present, returns one result of its
form (R58). -/
theorem exec_one_result {i : Instr} {s : State} (hcmd : ∃ c, encodeCommand i = some c) (hi : i.wf = true) (hf : s.fsm = .idle)
    (hw : s.waiting = false) (hev : i = .readCycle → ∃ ev rest, s.link = ev :: rest ∧ ev.wf s.params.readSize = true) :
    ∃ t r, exec i s = .next t ∧ t.results = s.results ++ [r] ∧ ResultForm r i := by
  cases i with
  | reset =>
    have hexec : exec .reset s = .next (respond .done (clearFramer s)) := if_pos ((framerFree_iff s).2 ⟨hf, hw⟩)
    exact ⟨_, _, hexec, rfl, rfl⟩
  | readCycle =>
    obtain ⟨ev, rest, hl, ha⟩ := hev rfl
    obtain ⟨t, hexec, _, _, _, _, _, _, hres⟩ := execReadCycle_event hf hw hl ha
    exact ⟨t, _, hexec, hres, cycleResult_form s.acc ev⟩
  | serialize b =>
    have hexec : exec (.serialize b) s = .next (respond (.bytes (serializeBody b)) s) := if_pos hi
    exact ⟨_, _, hexec, rfl, _, rfl⟩
  | deserialize b => exact ⟨_, _, rfl, rfl, deserializeResult_form b⟩
  | checksum b => exact ⟨_, _, rfl, rfl, _, rfl⟩
  | frameSize n =>
    have hsize := totalFrameSize_ofNat_toNat n
    have := n.isLt
    exact ⟨_, _, rfl, rfl, _, rfl, by omega, by omega⟩
  | reserved110 | reserved111 => exact absurd hi (by decide)
  | frLinkData | frLinkClosed | frLinkError | frShort | frDrop | frWait | frEmit | frDiscard | frCompact =>
    obtain ⟨c, hc⟩ := hcmd
    exact absurd hc (by simp [encodeCommand])

/-! ### The statements -/

/-- Settles O1: the decoder computes each. -/
theorem commandCodesDecode : Obligations.CommandCodesDecode :=
  ⟨rfl, rfl, fun _ => rfl, fun _ => rfl, fun _ => rfl, fun _ => rfl, fun _ => rfl, fun _ => rfl⟩

/-- Settles O5: the bytes of `serializeBody`, with the length field and the checksum written out. -/
theorem serializedFrameLayout : Obligations.SerializedFrameLayout := by
  intro body _ hmax
  have hbody : ((serializeBody body).drop 3).take body.length = body := List.take_left
  refine ⟨serializeFrame_length _, rfl, ?_, ?_, fun k hk => ?_, ?_⟩
  · rw [serializeBody_eq, hi8_ofNat hmax]; rfl
  · rw [serializeBody_eq, lo8_ofNat]; rfl
  · rw [serializeBody_eq, Nat.add_comm 3 k]
    exact List.getElem?_append_left hk
  · rw [hbody, ← checksumOf_eq_sum, serializeBody_eq]
    exact List.getElem?_concat_length

/-- Settles O22: each refused command answers `refuse`, or `refuseEvent`, which differs on the link port alone. -/
theorem refusalsChangeOnlyTheMark : Obligations.RefusalsChangeOnlyTheMark := by
  refine ⟨fun _ => ⟨rfl, rfl⟩, fun _ => ⟨rfl, rfl⟩, fun body s hb => execSerialize_refused hb s, fun s c rest hf hw hl hc => ?_⟩
  exact ⟨s.link.tail, by rw [exec, execReadCycle_refuses hf hw hl (admitsChunk_eq_false hc), refuseEvent_eq hw]⟩

/-- Settles O37: a transition answers a next state exactly where `rowTransition` names it, a function of the state, which
is the framer's selection on admitted events. -/
theorem exactlyOneTransition : Obligations.ExactlyOneTransition := by
  refine ⟨fun τ s => ?_, fun s h => ?_, fun τ s h => ?_, fun τ s t h hwf => ?_⟩
  · rw [exec_instr_isNext_iff, rowTransition_eq_some_iff]
    cases τ <;> rfl
  · obtain ⟨τ, hτ⟩ := exists_rowTransition h
    simp only [exec_instr_isNext_iff]
    exact ⟨τ, hτ, fun τ' hτ' => Option.some.inj (hτ'.symm.trans hτ)⟩
  · rw [exec_instr_isNext_iff, selectTransition_eq_rowTransition h]
  · rw [exec_transition] at h
    obtain ⟨rfl, hf, _, _, _, _, rfl⟩ | ⟨rfl, hf, c, rest, hl, ha, rfl⟩ | ⟨rfl, hf, _, rfl⟩ | ⟨rfl, hf, cause, rest, hl, rfl⟩ |
      ⟨rfl | rfl, hf, _, rfl⟩ | ⟨rfl, hf, _, rfl⟩ | ⟨rfl, hf, _, f, _, rfl⟩ | ⟨rfl, hf, _, rfl⟩ | ⟨rfl, hf, rfl⟩ :=
      runTransition_next h
    · exact ⟨by simp [hf], [], by simp, rfl⟩
    · exact absurd (ha.symm.trans (hwf (.data c) rest hl)) (by decide)
    · exact ⟨by simp [hf], _, rfl, rfl⟩
    · exact ⟨by simp [hf], _, rfl, cause, rest, hl, rfl⟩
    iterate 5 exact ⟨by simp [hf], [], by simp, rfl⟩
    · exact ⟨by simp [hf], _, rfl, rfl⟩

/-- Settles O57: the result of `exec_one_result`, whose form is its command's. -/
theorem oneResultEach : Obligations.OneResultEach := by
  intro i s hcmd hi hf hw hev
  obtain ⟨t, r, hexec, hres, hform⟩ := exec_one_result hcmd hi hf hw hev
  refine ⟨t, r, hexec, hres, ?_, ?_, fun _ => ?_, fun _ => ?_, fun _ => ?_, fun _ => ?_⟩ <;> rintro rfl <;> exact hform

/-- Settles O59: FEED's chunks are those of `chunksOf`. -/
theorem feedSplitsIntoChunks : Obligations.FeedSplitsIntoChunks := by
  intro n b hn
  refine ⟨chunksOf b.length n b, rfl, chunksOf_flatten hn b.length b (Nat.le_refl _), chunksOf_length hn b.length b,
    chunksOf_full n b.length b, ?_⟩
  rintro rfl
  rfl

end Machine
end Sys2Proof

/-! PROOFS. The statements of 40_codec.md: checksum arithmetic (R63, R64), the codec commands (R65 to R70), what DESERIALIZE
accepts (R71 to R77, R80) and which corruptions it detects (R78, R79). -/

namespace Sys2Proof

/-! ### Checksum arithmetic -/

/-- A body's checksum is the one byte that brings the sum to 0xFF (R64). -/
theorem sum8_append_singleton_eq_ff_iff (s : Bytes) (c : Byte) : sum8 (s ++ [c]) = 0xFF ↔ c = checksumOf s := by
  have := c.isLt
  rw [sum8_eq_ff_iff, sumNat_append, ← BitVec.toNat_inj, checksumOf_toNat]
  simp only [sumNat]
  omega

theorem sum8_body_checksum (s : Bytes) : sum8 (s ++ [checksumOf s]) = 0xFF :=
  (sum8_append_singleton_eq_ff_iff s _).2 rfl

/-- The sum modulo 256 is the sum of 8-bit arithmetic (R13, R64). -/
theorem foldl_add_eq_sum8 (s : Bytes) : ∀ a : Byte, s.foldl (· + ·) a = a + sum8 s := by
  induction s with
  | nil => intro a; simp [sum8, sumNat]
  | cons x xs ih =>
    intro a
    have hsum : sum8 (x :: xs) = x + sum8 xs := by
      apply BitVec.eq_of_toNat_eq
      rw [BitVec.toNat_add, sum8_toNat, sum8_toNat, sumNat, Nat.add_mod_mod]
    rw [List.foldl_cons, ih, hsum, BitVec.add_assoc]

theorem sum8_perm {s s' : Bytes} (h : s.Perm s') : sum8 s = sum8 s' := by
  rw [sum8, sum8, sumNat_eq_sum, sumNat_eq_sum, (h.map BitVec.toNat).sum_nat]

theorem sumNat_set (s : Bytes) (v : Byte) :
    ∀ j, j < s.length → sumNat (s.set j v) + (byteAt s j).toNat = sumNat s + v.toNat := by
  induction s with
  | nil => intro j hj; exact absurd hj (Nat.not_lt_zero j)
  | cons x xs ih =>
    intro j hj
    cases j with
    | zero => simp only [List.set_cons_zero, sumNat, byteAt, List.getD_cons_zero]; omega
    | succ j =>
      have := ih j (Nat.lt_of_succ_lt_succ hj)
      simp only [List.set_cons_succ, sumNat, byteAt, List.getD_cons_succ] at this ⊢
      omega

/-- The sum notices every change of a single byte: a byte is below the modulus. -/
theorem sum8_set_eq_iff {s : Bytes} {j : Nat} (hj : j < s.length) (v : Byte) : sum8 (s.set j v) = sum8 s ↔ v = byteAt s j := by
  have := sumNat_set s v j hj
  have := v.isLt
  have := (byteAt s j).isLt
  rw [sum8_eq_iff, ← BitVec.toNat_inj]
  omega

theorem xor_bit_ne_self (x : Byte) {k : Nat} (hk : k < 8) : x ^^^ (1#8 <<< k) ≠ x := by
  have hbit : ∀ k < 8, (1#8 <<< k) ≠ 0#8 := by decide
  intro h
  exact hbit k hk ((BitVec.xor_right_inj x).1 (h.trans (BitVec.xor_zero).symm))

theorem checksumValid_iff (b : Bytes) : checksumValid b = true ↔ 4 ≤ b.length ∧ sum8 (b.drop 3) = 0xFF := by
  rw [checksumValid, Bool.and_eq_true, decide_eq_true_iff, decide_eq_true_iff]

/-! ### The checks of Deserialize -/

/-- Where the sum is 0xFF, the last byte is the checksum of the bytes between it and the length field (R71). -/
theorem checksumOf_body_eq_last {b : Bytes} (h5 : 5 ≤ b.length) (hsum : sum8 (b.drop 3) = 0xFF) :
    checksumOf ((b.drop 3).take (b.length - 4)) = byteAt b (b.length - 1) := by
  rw [drop_three_eq b h5] at hsum
  exact ((sum8_append_singleton_eq_ff_iff _ _).1 hsum).symm

/-- Deserialize without its sixth step, which never fails (R69, R71). -/
theorem deserializeBytes_eq (b : Bytes) : deserializeBytes b =
    if b.length < 5 then .error .frameTooShort
    else if byteAt b 0 ≠ startDelim then .error .invalidStartDelimiter
    else if sum8 (b.drop 3) ≠ 0xFF then .error .checksumInvalid
    else if (lenField b).toNat ≠ b.length - 4 then .error .lengthMismatch
    else .ok ⟨lenField b, (b.drop 3).take (b.length - 4), byteAt b (b.length - 1)⟩ := by
  obtain ⟨h1, e⟩ | ⟨h1, h2, e⟩ | ⟨h1, h2, h3, e⟩ | ⟨h1, h2, h3, h4, e⟩ | ⟨h1, h2, h3, h4, h5, e⟩ | ⟨h1, h2, h3, h4, h5, e⟩ :=
    deserializeBytes_cases b <;> rw [e]
  · rw [if_pos h1]
  · rw [if_neg (Nat.not_lt.2 h1), if_pos h2]
  · rw [if_neg (Nat.not_lt.2 h1), if_neg (not_not.2 h2), if_pos h3]
  · rw [if_neg (Nat.not_lt.2 h1), if_neg (not_not.2 h2), if_neg (not_not.2 h3), if_pos h4]
  · rw [h4] at h5
    exact absurd (checksumOf_body_eq_last h1 h3) h5
  · rw [if_neg (Nat.not_lt.2 h1), if_neg (not_not.2 h2), if_neg (not_not.2 h3), if_neg (not_not.2 h4), h4]

section Checks
variable {b : Bytes}

theorem deserializeBytes_short (h : b.length < 5) : deserializeBytes b = .error .frameTooShort := by
  rw [deserializeBytes_eq, if_pos h]

variable (h5 : 5 ≤ b.length)
include h5

theorem deserializeBytes_delimiter (h0 : byteAt b 0 ≠ startDelim) : deserializeBytes b = .error .invalidStartDelimiter := by
  rw [deserializeBytes_eq, if_neg (Nat.not_lt.2 h5), if_pos h0]

variable (h0 : byteAt b 0 = startDelim)
include h0

theorem deserializeBytes_checksum (hsum : sum8 (b.drop 3) ≠ 0xFF) : deserializeBytes b = .error .checksumInvalid := by
  rw [deserializeBytes_eq, if_neg (Nat.not_lt.2 h5), if_neg (not_not.2 h0), if_pos hsum]

variable (hsum : sum8 (b.drop 3) = 0xFF)
include hsum

theorem deserializeBytes_length (hlen : (lenField b).toNat ≠ b.length - 4) : deserializeBytes b = .error .lengthMismatch := by
  rw [deserializeBytes_eq, if_neg (Nat.not_lt.2 h5), if_neg (not_not.2 h0), if_neg (not_not.2 hsum), if_pos hlen]

theorem deserializeBytes_accepts (hlen : (lenField b).toNat = b.length - 4) :
    deserializeBytes b = .ok ⟨lenField b, (b.drop 3).take (b.length - 4), byteAt b (b.length - 1)⟩ := by
  rw [deserializeBytes_eq, if_neg (Nat.not_lt.2 h5), if_neg (not_not.2 h0), if_neg (not_not.2 hsum), if_neg (not_not.2 hlen)]

end Checks

/-- A length field that does not fit the input's length keeps it from decoding (R69). -/
theorem deserializeBytes_ne_ok {b : Bytes} (h : (lenField b).toNat ≠ b.length - 4) (f : Frame) : deserializeBytes b ≠ .ok f := by
  intro hf
  obtain ⟨_, _, _, hlen, _⟩ := deserializeBytes_ok hf
  exact h hlen

/-- No length field fits an input longer than the longest frame (R75). -/
theorem lenField_ne_of_long {b : Bytes} (h : 65539 < b.length) : (lenField b).toNat ≠ b.length - 4 := by
  have := (lenField b).isLt
  omega

/-- Where steps 1, 2 and 5 pass, the sum decides (R80). -/
theorem deserializeBytes_ok_iff {b : Bytes} (h5 : 5 ≤ b.length) (h0 : byteAt b 0 = startDelim)
    (hlen : (lenField b).toNat = b.length - 4) : (∃ f, deserializeBytes b = .ok f) ↔ sum8 (b.drop 3) = 0xFF := by
  constructor
  · rintro ⟨f, hf⟩
    obtain ⟨_, _, hsum, _⟩ := deserializeBytes_ok hf
    exact hsum
  · exact fun hsum => ⟨_, deserializeBytes_accepts h5 h0 hsum hlen⟩

theorem byteAt_take (b : Bytes) {i n : Nat} (h : i < n) : byteAt (b.take n) i = byteAt b i := by
  rw [byteAt, byteAt, List.getD_eq_getElem?_getD, List.getElem?_take_of_lt h, List.getD_eq_getElem?_getD]

/-- The first three bytes give the length field. -/
theorem lenField_take_three (b : Bytes) : lenField (b.take 3) = lenField b := by
  rw [lenField, lenField, byteAt_take b (by decide), byteAt_take b (by decide)]

/-- Deserialize reads the bytes from index 3 on through their sum alone, except to return them (R72). -/
theorem deserializeBytes_error_iff {b b' : Bytes} (hlen : b.length = b'.length) (h3 : b.take 3 = b'.take 3)
    (hsum : sum8 (b.drop 3) = sum8 (b'.drop 3)) (e : Error) : deserializeBytes b = .error e ↔ deserializeBytes b' = .error e := by
  have h0 : byteAt b 0 = byteAt b' 0 := by
    rw [← byteAt_take b (show 0 < 3 by decide), h3, byteAt_take b' (by decide)]
  have hfield : lenField b = lenField b' := by rw [← lenField_take_three b, h3, lenField_take_three]
  rw [deserializeBytes_eq b, deserializeBytes_eq b', hlen, h0, hsum, hfield]
  split_ifs <;> simp

theorem byteAt_append_singleton (s : Bytes) (c : Byte) : byteAt (s ++ [c]) s.length = c := by
  rw [byteAt, List.getD_eq_getElem?_getD, List.getElem?_concat_length, Option.getD_some]

/-- Three header bytes, a body of the length they give and a byte that completes its sum decode to the body (R46, R69). -/
theorem deserializeBytes_wire {hi lo c : Byte} {body : Bytes} (hpos : 1 ≤ body.length) (hlen : (be16 hi lo).toNat = body.length)
    (hsum : sum8 (body ++ [c]) = 0xFF) :
    deserializeBytes (startDelim :: hi :: lo :: (body ++ [c])) = .ok ⟨be16 hi lo, body, c⟩ := by
  have htotal : (startDelim :: hi :: lo :: (body ++ [c])).length = body.length + 4 := by simp
  have hbody : (body ++ [c]).take body.length = body := List.take_left
  have hlast : byteAt (startDelim :: hi :: lo :: (body ++ [c])) (body.length + 3) = c := byteAt_append_singleton body c
  have haccepts := deserializeBytes_accepts (b := startDelim :: hi :: lo :: (body ++ [c])) (by omega) rfl hsum
    (by rw [htotal]; exact hlen)
  rwa [htotal, show body.length + 4 - 1 = body.length + 3 from rfl, hlast, Nat.add_sub_cancel, List.drop_succ_cons,
    List.drop_succ_cons, List.drop_succ_cons, List.drop_zero, hbody] at haccepts

/-! ### Frames and their wire bytes -/

/-- Every decoded frame is well-formed (R73). -/
theorem wf_of_deserializeBytes {b : Bytes} {f : Frame} (h : deserializeBytes b = .ok f) : f.wf = true := by
  obtain ⟨h5, _, _, hlen, hsum, rfl⟩ := deserializeBytes_ok h
  have := (lenField b).isLt
  have hbody : ((b.drop 3).take (lenField b).toNat).length = (lenField b).toNat :=
    List.length_take_of_le (by rw [List.length_drop]; omega)
  refine (frame_wf_iff _).2 ⟨hbody.symm, ?_, ?_, hsum.symm⟩ <;> rw [hbody] <;> omega

theorem length_of_deserializeBytes {b : Bytes} {f : Frame} (h : deserializeBytes b = .ok f) : f.body.length = b.length - 4 := by
  rw [← serializeFrame_of_deserializeBytes h, serializeFrame_length, Nat.add_sub_cancel]

theorem makeFrame_wf {body : Bytes} (hpos : 1 ≤ body.length) (hmax : body.length ≤ 65535) : (makeFrame body).wf = true :=
  (frame_wf_iff _).2 ⟨Nat.mod_eq_of_lt (by omega), hpos, hmax, rfl⟩

theorem makeFrame_body_of_wf {f : Frame} (h : f.wf = true) : makeFrame f.body = f := by
  obtain ⟨hlen, _, _, hc⟩ := (frame_wf_iff f).1 h
  rw [makeFrame, ← hlen, ← hc, BitVec.ofNat_toNat, BitVec.setWidth_eq]

theorem deserializeBytes_serializeFrame {f : Frame} (h : f.wf = true) : deserializeBytes (serializeFrame f) = .ok f := by
  obtain ⟨hlen, hpos, _, hc⟩ := (frame_wf_iff f).1 h
  rw [serializeFrame, deserializeBytes_wire hpos (by rw [be16_hi8_lo8, hlen]) (sum8_body_checksum f.body), be16_hi8_lo8, ← hc]

/-- Bytes behind a frame are summed with it or do not fit its length field (R75). -/
theorem deserializeBytes_serializeFrame_append {f : Frame} (h : f.wf = true) {y : Bytes} (hy : y ≠ []) :
    deserializeBytes (serializeFrame f ++ y) = .error .checksumInvalid ∨
      deserializeBytes (serializeFrame f ++ y) = .error .lengthMismatch := by
  obtain ⟨hlen, hpos, _, _⟩ := (frame_wf_iff f).1 h
  have hypos := List.length_pos_iff.2 hy
  have htotal : (serializeFrame f ++ y).length = f.body.length + 4 + y.length := by
    rw [List.length_append, serializeFrame_length]
  by_cases hsum : sum8 ((serializeFrame f ++ y).drop 3) = 0xFF
  · exact .inr (deserializeBytes_length (by omega) rfl hsum (by rw [lenField_serializeFrame]; omega))
  · exact .inl (deserializeBytes_checksum (by omega) rfl hsum)

/-- A frame without its last bytes does not fit its length field, or is too short to have one (R75). -/
theorem deserializeBytes_take_ne_ok {f : Frame} (h : f.wf = true) {k : Nat} (hk : k < (serializeFrame f).length) (g : Frame) :
    deserializeBytes ((serializeFrame f).take k) ≠ .ok g := by
  obtain ⟨hlen, _⟩ := (frame_wf_iff f).1 h
  have hcut : ((serializeFrame f).take k).length = k := List.length_take_of_le (Nat.le_of_lt hk)
  rw [serializeFrame_length] at hk
  by_cases h5 : k < 5
  · rw [deserializeBytes_short (by omega)]; simp
  · have hfield : lenField ((serializeFrame f).take k) = f.length := by
      rw [← lenField_append _ ((serializeFrame f).drop k) (by omega), List.take_append_drop,
        ← List.append_nil (serializeFrame f), lenField_serializeFrame]
    exact deserializeBytes_ne_ok (by rw [hfield]; omega) g

/-- A change of one byte behind the length field is detected (R78). -/
theorem deserializeBytes_set_serializeFrame (f : Frame) {i : Nat} {v : Byte} (h : f.wf = true) (h3 : 3 ≤ i)
    (hi : i < (serializeFrame f).length) (hv : v ≠ byteAt (serializeFrame f) i) :
    deserializeBytes ((serializeFrame f).set i v) = .error .checksumInvalid := by
  obtain ⟨_, hpos, _, _⟩ := (frame_wf_iff f).1 h
  obtain ⟨j, rfl⟩ := Nat.exists_eq_add_of_le' h3
  rw [serializeFrame_length] at hi
  have hj : j < (f.body ++ [checksumOf f.body]).length := by simp; omega
  have hsum : sum8 ((f.body ++ [checksumOf f.body]).set j v) ≠ 0xFF := by
    rw [← sum8_body_checksum f.body]
    exact mt (sum8_set_eq_iff hj v).1 hv
  exact deserializeBytes_checksum (by rw [List.length_set, serializeFrame_length]; omega) rfl hsum

namespace Machine

/-! ### The codec commands -/

/-- The result of DESERIALIZE, from the input's bytes alone, in step order (R69, R70). -/
theorem deserializeResult_eq (b : Bytes) : deserializeResult b =
    if b.length < 5 then .err .frameTooShort
    else if byteAt b 0 ≠ 0x7E then .err .invalidStartDelimiter
    else if ((b.drop 3).map BitVec.toNat).sum % 256 ≠ 255 then .err .checksumInvalid
    else if (byteAt b 1).toNat * 256 + (byteAt b 2).toNat ≠ b.length - 4 then .err .lengthMismatch
    else if checksumOf ((b.drop 3).take (b.length - 4)) ≠ byteAt b (b.length - 1) then .err .checksumInvalid
    else .frame ⟨BitVec.ofNat 16 (b.length - 4), (b.drop 3).take (b.length - 4), byteAt b (b.length - 1)⟩ := by
  rw [deserializeResult, deserializeBytes_eq, startDelim, ← sumNat_eq_sum, ← lenField_toNat]
  simp only [ne_eq, ← sum8_eq_ff_iff]
  split_ifs with h1 h2 h3 h4 h6
  · rfl
  · rw [← h4, BitVec.ofNat_toNat, BitVec.setWidth_eq]
  · exact absurd (checksumOf_body_eq_last (Nat.not_lt.1 h1) h3) h6
  iterate 3 rfl

/-! ### The statements -/

/-- Settles O18: a frame's wire form decodes to it. -/
theorem deserializeAfterSerialize : Obligations.DeserializeAfterSerialize :=
  fun _ => deserializeBytes_serializeFrame

/-- Settles O19: what decodes is the wire form of a well-formed frame, and its wire form decodes to no other frame. -/
theorem serializeAfterDeserialize : Obligations.SerializeAfterDeserialize := by
  refine ⟨fun b f => serializeFrame_of_deserializeBytes, fun b => ⟨?_, ?_⟩, fun f g hf hg h => ?_⟩
  · rintro ⟨f, hf⟩
    exact ⟨f, wf_of_deserializeBytes hf, serializeFrame_of_deserializeBytes hf⟩
  · rintro ⟨f, hf, rfl⟩
    exact ⟨f, deserializeBytes_serializeFrame hf⟩
  · have hfg := deserializeBytes_serializeFrame hf
    rw [h, deserializeBytes_serializeFrame hg] at hfg
    exact (Except.ok.inj hfg).symm

/-- Settles O20: a flipped bit changes its byte, hence the sum. -/
theorem singleBitFlipDetected : Obligations.SingleBitFlipDetected :=
  fun f _ _ hf h3 hi hk => deserializeBytes_set_serializeFrame f hf h3 hi (xor_bit_ne_self _ hk)

/-- Settles O6: the sum of 8-bit arithmetic, and the one byte that completes a body to 0xFF. -/
theorem checksumLaws : Obligations.ChecksumLaws := by
  refine ⟨fun s s' h => ?_, fun x => ⟨?_, BitVec.allOnes_sub_eq_not x⟩, sum8_body_checksum, sum8_append_singleton_eq_ff_iff⟩
  · rw [foldl_add_eq_sum8, sum8_perm h]; exact BitVec.zero_add _
  · rw [show (0xFF : Byte) - x = ~~~x from BitVec.allOnes_sub_eq_not x, BitVec.toNat_not]

/-- Settles O7: where steps 1, 2 and 5 pass, the sum decides. -/
theorem checksumValidDecides : Obligations.ChecksumValidDecides := by
  refine ⟨fun b => ?_, fun b h5 h0 hlen => ?_⟩
  · rw [checksumValid_iff, sum8_eq_ff_iff, sumNat_eq_sum]
  · rw [deserializeBytes_ok_iff h5 h0 hlen, checksumValid_iff]
    exact ⟨fun h => ⟨by omega, h⟩, And.right⟩

/-- Settles O10: MakeFrame is well-formed on bodies of 1 to 65535 bytes, and a well-formed frame's other fields are those of
its body. -/
theorem makeFrameLaws : Obligations.MakeFrameLaws :=
  ⟨fun _ hpos hmax => ⟨Nat.mod_eq_of_lt (by omega), rfl, rfl, makeFrame_wf hpos hmax⟩, fun _ hf => (makeFrame_body_of_wf hf).symm⟩

/-- Settles O12: DESERIALIZE returns `deserializeResult`. -/
theorem deserializeCommandResult : Obligations.DeserializeCommandResult := by
  intro b s
  rw [← deserializeResult_eq]
  exact ⟨rfl, rfl⟩

/-- Settles O13: the last byte completes the bytes before it to 0xFF, so it is their checksum. -/
theorem stepSixNeverFails : Obligations.StepSixNeverFails :=
  fun b h5 hsum _ => ⟨drop_three_eq b h5, checksumOf_body_eq_last h5 hsum⟩

/-- Settles O14: the checks read the bytes from index 3 on through their sum, and every body decodes once serialized. -/
theorem typeAndPayloadOnlySummed : Obligations.TypeAndPayloadOnlySummed := by
  refine ⟨fun b b' => deserializeBytes_error_iff, fun code payload hmax => ?_⟩
  have hlen : (code :: payload).length = payload.length + 1 := rfl
  exact deserializeBytes_serializeFrame (makeFrame_wf (by omega) (by omega))

/-- Settles O15: a decoded frame is well-formed, and its wire form is the input. -/
theorem decodedFramesWellFormed : Obligations.DecodedFramesWellFormed := by
  intro b f h
  obtain ⟨hlen, hpos, hmax, hc⟩ := (frame_wf_iff f).1 (wf_of_deserializeBytes h)
  have hbody := length_of_deserializeBytes h
  exact ⟨hlen.trans hbody, hbody, hpos, hmax, hc⟩

/-- Settles O16: an input of 5 or more bytes has a length of 1 or more to match, and a decoded frame is well-formed. -/
theorem lengthZeroNeverDecodes : Obligations.LengthZeroNeverDecodes := by
  refine ⟨fun b hb => ?_, fun b f hf => ?_⟩
  · have hfield : (lenField b).toNat = 0 := congrArg BitVec.toNat hb
    refine ⟨fun h4 => deserializeBytes_short (by omega),
      fun h5 h0 hsum => deserializeBytes_length h5 h0 hsum (by omega), fun f hf => ?_⟩
    obtain ⟨h5, _, _, hlen, _⟩ := deserializeBytes_ok hf
    omega
  · obtain ⟨_, hpos, _, _⟩ := (frame_wf_iff f).1 (wf_of_deserializeBytes hf)
    exact List.length_pos_iff.1 hpos

/-- Settles O17: a length field is at most 65535, and a frame's length field fits neither an extension nor a cut of it. -/
theorem otherLengthsNeverDecode : Obligations.OtherLengthsNeverDecode := by
  refine ⟨fun b hb => deserializeBytes_ne_ok (lenField_ne_of_long hb),
    fun b hb h0 hsum => deserializeBytes_length (by omega) h0 hsum (lenField_ne_of_long hb), fun fs h2 hwf => ?_, fun f y hf hy g => ?_,
    fun f k hf hk => deserializeBytes_take_ne_ok hf hk⟩
  · obtain _ | ⟨f, _ | ⟨f', fs⟩⟩ := fs
    · simp at h2
    · simp at h2
    · rw [List.flatMap_cons]
      exact deserializeBytes_serializeFrame_append (hwf f List.mem_cons_self) (by simp [serializeFrame])
  · obtain h | h := deserializeBytes_serializeFrame_append hf hy <;> rw [h] <;> simp

/-- Settles O21: the first check that reads what changed fails, or, where the sum is kept, none. -/
theorem otherCorruptions : Obligations.OtherCorruptions := by
  intro f hf
  obtain ⟨hlen, hpos, _, _⟩ := (frame_wf_iff f).1 hf
  refine ⟨fun x hx => ?_, fun hi lo hne => ?_, fun y hy hsum => ?_⟩
  · exact deserializeBytes_delimiter (by rw [List.length_set, serializeFrame_length]; omega) hx
  · have hfield : (be16 hi lo).toNat ≠ f.length.toNat := mt BitVec.eq_of_toNat_eq hne
    have htotal : (((serializeFrame f).set 1 hi).set 2 lo).length = f.body.length + 4 := by
      rw [List.length_set, List.length_set, serializeFrame_length]
    refine deserializeBytes_length (by omega) rfl (sum8_body_checksum f.body) ?_
    rw [show lenField (((serializeFrame f).set 1 hi).set 2 lo) = be16 hi lo from rfl]
    omega
  · obtain rfl | ⟨body, c, rfl⟩ := y.eq_nil_or_concat'
    · simp at hy
    have hbody : body.length = f.body.length := by simpa using hy
    rw [← hbody, List.take_left, byteAt_append_singleton]
    have hwire := deserializeBytes_wire (hi := hi8 f.length) (lo := lo8 f.length) (body := body) (c := c) (by omega)
      (by rw [be16_hi8_lo8, hlen, hbody]) (hsum.trans (sum8_body_checksum f.body))
    rwa [be16_hi8_lo8] at hwire

/-- Settles O8: the value of `checksumOf` in terms of the list sum. -/
theorem checksumCommandResult : Obligations.ChecksumCommandResult :=
  fun b _ => ⟨rfl, checksumOf b, rfl, by rw [checksumOf_toNat, sumNat_eq_sum]⟩

/-- Settles O9: 17 bits hold the size. -/
theorem frameSizeCommandResult : Obligations.FrameSizeCommandResult :=
  fun n _ => ⟨rfl, _, rfl, by rw [totalFrameSize_ofNat_toNat]; omega⟩

/-- Settles O11: an admitted body is answered with `serializeBody`, whose bytes are written out. -/
theorem serializeCommandResult : Obligations.SerializeCommandResult := by
  intro body s hpos hmax
  have hexec : exec (.serialize body) s = .next (respond (.bytes (serializeBody body)) s) :=
    if_pos ((isFrameBuffer_iff body).2 ⟨hpos, hmax⟩)
  have hlen : (serializeBody body).length = body.length + 4 := serializeFrame_length _
  refine ⟨rfl, serializeBody body, hexec, ?_, hlen, ?_⟩
  · rw [serializeBody_eq, hi8_ofNat hmax, lo8_ofNat]; rfl
  · rw [hlen, totalFrameSize, BitVec.toNat_ofNat, Nat.mod_eq_of_lt (by omega)]; omega

end Machine
end Sys2Proof

/-! PROOFS. The statements of 41_stream_framer.md: the transitions one by one (R83 to R95), READ_CYCLE (R82, R93, R94) and the laws
of Extract and of the cycles that run it (R98 to R104). -/

namespace Sys2Proof

/-! ### Blocks: a delimiter and as many bytes as its length field says -/

theorem length_eq_of_block {blk : Bytes} (hT : blk.length = totalFrameSize (lenField blk)) :
    blk.length = (lenField blk).toNat + 4 := by
  rw [totalFrameSize] at hT; omega

/-- What Deserialize does with a block: its length fits its length field, so only an empty body and the sum can fail it (R92). -/
theorem deserializeBytes_block {blk : Bytes} (h0 : byteAt blk 0 = startDelim)
    (hT : blk.length = totalFrameSize (lenField blk)) :
    ((lenField blk).toNat = 0 ∧ deserializeBytes blk = .error .frameTooShort) ∨
    (1 ≤ (lenField blk).toNat ∧ sum8 (blk.drop 3) ≠ 0xFF ∧ deserializeBytes blk = .error .checksumInvalid) ∨
    (1 ≤ (lenField blk).toNat ∧ sum8 (blk.drop 3) = 0xFF ∧ ∃ f, deserializeBytes blk = .ok f) := by
  have hlen := length_eq_of_block hT
  by_cases hL : (lenField blk).toNat = 0
  · exact .inl ⟨hL, deserializeBytes_short (by omega)⟩
  · by_cases hsum : sum8 (blk.drop 3) = 0xFF
    · exact .inr (.inr ⟨by omega, hsum, _, deserializeBytes_accepts (by omega) h0 hsum (by omega)⟩)
    · exact .inr (.inl ⟨by omega, hsum, deserializeBytes_checksum (by omega) h0 hsum⟩)

/-- A block decodes exactly if its body is not empty and it is checksum-valid (R92). -/
theorem deserializeBytes_block_ok_iff {blk : Bytes} (h0 : byteAt blk 0 = startDelim)
    (hT : blk.length = totalFrameSize (lenField blk)) :
    (∃ f, deserializeBytes blk = .ok f) ↔ 1 ≤ (lenField blk).toNat ∧ checksumValid blk = true := by
  have hlen := length_eq_of_block hT
  rw [checksumValid_iff]
  constructor
  · rintro ⟨f, hf⟩
    obtain ⟨h5, _, hsum, _⟩ := deserializeBytes_ok hf
    exact ⟨by omega, by omega, hsum⟩
  · rintro ⟨hL, _, hsum⟩
    exact ⟨_, deserializeBytes_accepts (by omega) h0 hsum (by omega)⟩

/-- What the length field of the head cuts off is a block (R20). -/
theorem block_of_take {x : Bytes} (h0 : byteAt x 0 = startDelim) (hT : totalFrameSize (lenField x) ≤ x.length) :
    byteAt (x.take (totalFrameSize (lenField x))) 0 = startDelim ∧
      lenField (x.take (totalFrameSize (lenField x))) = lenField x ∧
      (x.take (totalFrameSize (lenField x))).length = totalFrameSize (lenField x) := by
  have h4 : 4 ≤ totalFrameSize (lenField x) := by unfold totalFrameSize; omega
  have hlen := List.length_take_of_le hT
  have hfield := lenField_append (x.take (totalFrameSize (lenField x))) (x.drop (totalFrameSize (lenField x))) (by omega)
  rw [List.take_append_drop] at hfield
  exact ⟨(byteAt_take x (by omega)).trans h0, hfield.symm, hlen⟩

/-! ### Extract of a block with bytes behind it -/

section Block
variable {blk : Bytes} (h0 : byteAt blk 0 = startDelim) (hT : blk.length = totalFrameSize (lenField blk))
include h0 hT

/-- The loop finds a block at the head whatever follows it (R98). -/
theorem block_append (y : Bytes) : byteAt (blk ++ y) 0 = startDelim ∧
    totalFrameSize (lenField (blk ++ y)) = blk.length ∧ totalFrameSize (lenField (blk ++ y)) ≤ (blk ++ y).length := by
  have hlen := length_eq_of_block hT
  have hfield : totalFrameSize (lenField (blk ++ y)) = blk.length := by rw [lenField_append blk y (by omega), hT]
  exact ⟨(byteAt_append_left blk y (by omega)).trans h0, hfield, by rw [hfield, List.length_append]; omega⟩

/-- A block that decodes is one frame, before those of the bytes behind it (R89). -/
theorem extract_append_of_ok {f : Frame} (y : Bytes) (hf : deserializeBytes blk = .ok f) :
    extract (blk ++ y) = ((extract y).1, f :: (extract y).2) := by
  obtain ⟨h5, _⟩ := deserializeBytes_ok hf
  obtain ⟨hd, hfield, hle⟩ := block_append h0 hT y
  rw [extract_emit (by rw [List.length_append]; exact Nat.le_add_right_of_le h5) hd hle
    (by rw [hfield, List.take_left]; exact hf), hfield, List.drop_left]

/-- A block that does not decode is lost whole, and scanning resumes behind it (R90, R91). -/
theorem extract_append_of_error {e : Error} (y : Bytes) (hf : deserializeBytes blk = .error e)
    (h5 : 5 ≤ (blk ++ y).length) : extract (blk ++ y) = extract y := by
  obtain ⟨hd, hfield, hle⟩ := block_append h0 hT y
  rw [extract_discard h5 hd hle (by rw [hfield, List.take_left]; exact hf), hfield, List.drop_left]

end Block

/-! ### The chunking lemma -/

/-- Extract in two pieces: the loop's decisions on `x` do not change when `y` stands behind it (R99). -/
theorem extract_append (x y : Bytes) :
    extract (x ++ y) = ((extract ((extract x).1 ++ y)).1, (extract x).2 ++ (extract ((extract x).1 ++ y)).2) := by
  induction x using extract_induction with
  | short x h => rw [extract_short h]; rfl
  | wait x h h0 hT => rw [extract_wait h h0 hT]; rfl
  | drop x h h0 ih =>
    have h1 : 1 ≤ x.length := Nat.le_trans (by decide) h
    rw [extract_drop h h0, ← ih, extract_drop (by rw [List.length_append]; omega) (by rwa [byteAt_append_left x y h1]),
      List.drop_append_of_le_length h1]
  | emit x f h h0 hT hf ih =>
    obtain ⟨hd, hfield, hlen⟩ := block_of_take h0 hT
    have happ := extract_append_of_ok hd (by rw [hfield, hlen]) (x.drop (totalFrameSize (lenField x)) ++ y) hf
    rw [← List.append_assoc, List.take_append_drop, ih] at happ
    rw [happ, extract_emit h h0 hT hf]
    rfl
  | discard x e h h0 hT hf ih =>
    obtain ⟨hd, hfield, hlen⟩ := block_of_take h0 hT
    have happ := extract_append_of_error hd (by rw [hfield, hlen]) (x.drop (totalFrameSize (lenField x)) ++ y) hf
    rw [← List.append_assoc, List.take_append_drop, ih] at happ
    rw [happ (by rw [List.length_append]; exact Nat.le_add_right_of_le h), extract_discard h h0 hT hf]

/-! ### Extract of frames and of noise -/

theorem extract_nil : extract [] = ([], []) := extract_short (by decide)

/-- A frame's wire bytes are the frame, before what the bytes behind them hold (R103). -/
theorem extract_serializeFrame_append {f : Frame} (h : f.wf = true) (y : Bytes) :
    extract (serializeFrame f ++ y) = ((extract y).1, f :: (extract y).2) := by
  obtain ⟨hlen, _⟩ := (frame_wf_iff f).1 h
  have hfield := lenField_serializeFrame f []
  rw [List.append_nil] at hfield
  refine extract_append_of_ok rfl ?_ y (deserializeBytes_serializeFrame h)
  rw [hfield, serializeFrame_length, totalFrameSize]
  omega

theorem extract_serializeFrame {f : Frame} (h : f.wf = true) : extract (serializeFrame f) = ([], [f]) := by
  have happ := extract_serializeFrame_append h []
  rwa [List.append_nil, extract_nil] at happ

/-- Bytes other than the delimiter are dropped one by one while 5 bytes or more stand behind them (R87, R101). -/
theorem extract_noise_append {noise y : Bytes} (hn : ∀ b ∈ noise, b ≠ startDelim) (hy : 5 ≤ y.length) :
    extract (noise ++ y) = extract y := by
  induction noise with
  | nil => rfl
  | cons b bs ih =>
    have hhead : byteAt (b :: (bs ++ y)) 0 ≠ startDelim := hn b List.mem_cons_self
    have hlen : minFrameLen ≤ (b :: (bs ++ y)).length := by
      rw [List.length_cons, List.length_append, minFrameLen]; omega
    exact (extract_drop hlen hhead).trans (ih fun b' hb' => hn b' (List.mem_cons_of_mem b hb'))

/-- Noise before a frame is passed over, and the frame is found (R101). -/
theorem extract_noise_serializeFrame {noise : Bytes} {f : Frame} (hn : ∀ b ∈ noise, b ≠ startDelim) (h : f.wf = true) :
    extract (noise ++ serializeFrame f) = ([], [f]) := by
  obtain ⟨_, hpos, _⟩ := (frame_wf_iff f).1 h
  rw [extract_noise_append hn (by rw [serializeFrame_length]; omega), extract_serializeFrame h]

/-- A frame without its last bytes holds nothing the loop could act on (R102). -/
theorem quiescent_of_frame_cut {f : Frame} {x y : Bytes} (h : f.wf = true) (hx : x ++ y = serializeFrame f) (hy : y ≠ []) :
    Machine.Quiescent x := by
  obtain ⟨hlen, _⟩ := (frame_wf_iff f).1 h
  have hypos := List.length_pos_iff.2 hy
  have htotal := congrArg List.length hx
  rw [List.length_append, serializeFrame_length] at htotal
  by_cases h5 : x.length < minFrameLen
  · exact .inl h5
  · unfold minFrameLen at h5
    have hhead : byteAt x 0 = startDelim := by rw [← byteAt_append_left x y (by omega), hx]; rfl
    have hfield : lenField x = f.length := by
      rw [← lenField_append x y (by omega), hx, ← lenField_serializeFrame f [], List.append_nil]
    exact .inr ⟨hhead, by rw [hfield, totalFrameSize]; omega⟩

/-! ### The minimum frame length -/

/-- Fewer than 5 bytes hold no frame, wherever the loop stops (R100). -/
theorem extractWith_frames_of_short (m n : Nat) : ∀ x : Bytes, x.length < 5 → (extractWith m n x).2 = [] := by
  induction n with
  | zero => intro x _; rfl
  | succ n ih =>
    intro x hx
    have hshort (k : Nat) : deserializeBytes (x.take k) = .error .frameTooShort :=
      deserializeBytes_short (by rw [List.length_take]; omega)
    rw [extractWith_succ]
    split_ifs
    · rfl
    · exact ih _ (by rw [List.length_drop]; omega)
    · rfl
    · rw [hshort]
      exact ih _ (by rw [List.length_drop]; omega)

/-- A minimum frame length of at most 5 finds the frames that 5 finds: they differ on fewer than 5 bytes alone (R100). -/
theorem extractWith_frames {m : Nat} (hm : m ≤ 5) (x : Bytes) :
    ∀ n, x.length ≤ n → (extractWith m n x).2 = (extract x).2 := by
  have hsucc {x : Bytes} (h : minFrameLen ≤ x.length) {n : Nat} (hn : x.length ≤ n) : ∃ k, n = k + 1 :=
    ⟨n - 1, by unfold minFrameLen at h; omega⟩
  have hlong {x : Bytes} (h : minFrameLen ≤ x.length) : ¬ x.length < m := Nat.not_lt.2 (hm.trans h)
  induction x using extract_induction with
  | short x h => intro n _; rw [extractWith_frames_of_short m n x h, extract_short h]
  | wait x h h0 hT =>
    intro n hn
    obtain ⟨k, rfl⟩ := hsucc h hn
    rw [extractWith_succ, if_neg (hlong h), if_neg (not_not.2 h0), if_pos hT, extract_wait h h0 hT]
  | drop x h h0 ih =>
    intro n hn
    obtain ⟨k, rfl⟩ := hsucc h hn
    rw [extractWith_succ, if_neg (hlong h), if_pos h0, extract_drop h h0]
    exact ih k (by rw [List.length_drop]; omega)
  | emit x f h h0 hT hf ih =>
    intro n hn
    obtain ⟨k, rfl⟩ := hsucc h hn
    have h4 : 4 ≤ totalFrameSize (lenField x) := by unfold totalFrameSize; omega
    rw [extractWith_succ, if_neg (hlong h), if_neg (not_not.2 h0), if_neg (by omega), hf,
      extract_emit h h0 hT hf]
    exact congrArg (f :: ·) (ih k (by rw [List.length_drop]; omega))
  | discard x e h h0 hT hf ih =>
    intro n hn
    obtain ⟨k, rfl⟩ := hsucc h hn
    have h4 : 4 ≤ totalFrameSize (lenField x) := by unfold totalFrameSize; omega
    rw [extractWith_succ, if_neg (hlong h), if_neg (not_not.2 h0), if_neg (by omega), hf,
      extract_discard h h0 hT hf]
    exact ih k (by rw [List.length_drop]; omega)

namespace Machine

/-! ### A run of read cycles is Extract of the stream -/

/-- On a quiescent accumulator every read cycle is Extract of what was held followed by what was read (R98, R100). -/
theorem cycle_eq_extract {acc : Bytes} (h : Quiescent acc) (ev : LinkEvent) :
    extract (acc ++ eventBytes ev) = (cycleAcc acc ev, resultFrames (cycleResult acc ev)) := by
  cases ev with
  | data c => rfl
  | empty | closed | error => rw [eventBytes, List.append_nil, extract_of_quiescent h]; rfl

/-- The read cycles over any events, from a quiescent accumulator, return the frames of Extract of what was held followed by what
was read, and leave its rest (R100). -/
theorem ReadsEvents.run_eq_extract (evs : List LinkEvent) : ∀ s : State, ReadsEvents s evs → Quiescent s.acc →
    ∃ t rs, core.run evs.length s = .next t ∧ t.results = s.results ++ rs ∧
      extract (s.acc ++ streamBytes evs) = (t.acc, framesOf rs) := by
  induction evs with
  | nil =>
    intro s _ hq
    have hstream : s.acc ++ streamBytes [] = s.acc := List.append_nil s.acc
    exact ⟨s, [], rfl, (List.append_nil s.results).symm, by rw [hstream, extract_of_quiescent hq]; rfl⟩
  | cons ev evs ih =>
    intro s h hq
    obtain ⟨s', hstep, hreads, hacc, hres⟩ := h.step_cons
    have hfirst := cycle_eq_extract hq ev
    have hq' : Quiescent s'.acc := by
      have hrest := extract_fst_quiescent (s.acc ++ eventBytes ev)
      rwa [hfirst, ← hacc] at hrest
    obtain ⟨t, rs, hrun, hress, hlater⟩ := ih s' hreads hq'
    have hstream : s.acc ++ streamBytes (ev :: evs) = s.acc ++ eventBytes ev ++ streamBytes evs := by
      rw [List.append_assoc]; rfl
    refine ⟨t, cycleResult s.acc ev :: rs, (run_succ core evs.length s s' hstep).trans hrun,
      by rw [hress, hres, List.append_assoc]; rfl, ?_⟩
    rw [hstream, extract_append, hfirst, ← hacc, hlater]
    rfl

/-- `run_eq_extract` from an empty accumulator. -/
theorem ReadsEvents.run_of_nil {s : State} {evs : List LinkEvent} (h : ReadsEvents s evs) (hacc : s.acc = []) :
    ∃ t rs, core.run evs.length s = .next t ∧ t.results = s.results ++ rs ∧
      extract (streamBytes evs) = (t.acc, framesOf rs) := by
  obtain ⟨t, rs, hrun, hres, hx⟩ := h.run_eq_extract evs s (by rw [hacc]; decide)
  rw [hacc, List.nil_append] at hx
  exact ⟨t, rs, hrun, hres, hx⟩

/-- READ_CYCLE of an idle framer on an admitted chunk returns the frames of Extract and leaves its rest (R82, R98). -/
theorem exec_readCycle_data {s : State} {c : Bytes} {rest : List LinkEvent} (hf : s.fsm = .idle) (hw : s.waiting = false)
    (hl : s.link = .data c :: rest) (hpos : 1 ≤ c.length) (hmax : c.length ≤ s.params.readSize) :
    exec .readCycle s = .next (cycleEnd (afterLinkData c s)) := by
  have ha := (admitsChunk_iff c s).2 ⟨hpos, hmax⟩
  exact (execReadCycle_admitted hf hw hl ha).trans (runToIdle_data hf hl ha)

/-- `exec_readCycle_data` in terms of the value of Extract. -/
theorem exec_readCycle_of_extract {s : State} {c r : Bytes} {fs : List Frame} {rest : List LinkEvent} (hf : s.fsm = .idle)
    (hw : s.waiting = false) (hl : s.link = .data c :: rest) (hpos : 1 ≤ c.length) (hmax : c.length ≤ s.params.readSize)
    (hx : extract (s.acc ++ c) = (r, fs)) :
    ∃ t, exec .readCycle s = .next t ∧ t.acc = r ∧ t.results = s.results ++ [.frames fs] := by
  have hframes : (cycleEnd (afterLinkData c s)).results = s.results ++ [.frames (extract (s.acc ++ c)).2] := rfl
  refine ⟨_, exec_readCycle_data hf hw hl hpos hmax, ?_, ?_⟩
  · rw [cycleEnd_acc, afterLinkData_acc, hx]
  · rw [hframes, hx]

/-- Compaction keeps the capacity at what is held or above (R23, R95). -/
theorem cycleEnd_acc_le_cap {s : State} (h : s.acc.length ≤ s.cap) : (cycleEnd s).acc.length ≤ (cycleEnd s).cap := by
  have hcap : (cycleEnd s).cap = compactedCap s.params.compactThreshold s.cap (extract s.acc).1.length := rfl
  obtain ⟨n, hn⟩ := extract_fst_eq_drop s.acc
  have hle : (extract s.acc).1.length ≤ s.acc.length := by rw [hn, List.length_drop]; exact Nat.sub_le _ _
  rw [hcap, cycleEnd_acc, compactedCap]
  split_ifs <;> omega

/-! ### The progress of the loop -/

/-- The transitions that take bytes off the accumulator (R93). -/
def consumes (τ : Transition) : Bool := decide (τ = .drop ∨ τ = .emit ∨ τ = .discard)

/-- The loop goes on only with 5 bytes or more (R86). -/
theorem length_of_selectScan {x : Bytes} (h : selectScan x ≠ .short) : 5 ≤ x.length := by
  by_contra hlt
  exact h (selectScan_short (Nat.not_le.1 hlt))

/-- A drop, an emit and a discard each remove a byte or more (R93). -/
theorem runTransition_shrinks {τ : Transition} {s t : State} (h : runTransition τ s = .next t) (hτ : consumes τ = true) :
    t.acc.length < s.acc.length := by
  have hT : 4 ≤ s.blockSize := by unfold State.blockSize totalFrameSize; omega
  obtain ⟨rfl, _⟩ | ⟨rfl, _⟩ | ⟨rfl, _⟩ | ⟨rfl, _⟩ | ⟨rfl | rfl, _⟩ | ⟨rfl, _, ht, rfl⟩ | ⟨rfl, _, ht, f, _, rfl⟩ |
    ⟨rfl, _, ht, rfl⟩ | ⟨rfl, _⟩ := runTransition_next h
  iterate 6 exact absurd hτ (by decide)
  iterate 3
    have h5 := length_of_selectScan (x := s.acc) (by rw [ht]; decide)
    simp only [accDrop_acc, emitFrame_acc, List.length_drop]
    omega
  exact absurd hτ (by decide)

/-- No transition of the loop adds to the accumulator, and one that consumes makes it shorter (R16, R93). -/
theorem runTransition_progress {τ : Transition} {s t : State} (hf : s.fsm ≠ .idle) (h : runTransition τ s = .next t) :
    ([τ].filter consumes).length + t.acc.length ≤ s.acc.length := by
  cases hτ : consumes τ with
  | true =>
    have := runTransition_shrinks h hτ
    simp only [List.filter_cons, hτ, if_true, List.filter_nil, List.length_singleton]
    omega
  | false =>
    obtain ⟨_, hidle, _⟩ | ⟨n, ht⟩ := runTransition_acc h
    · exact absurd hidle hf
    · simp [hτ, ht]

/-- Inside a cycle a transition is selected, and it answers a next state (R59). -/
theorem exists_selected {s : State} (hf : s.fsm ≠ .idle) :
    ∃ τ t, selectTransition s = some τ ∧ runTransition τ s = .next t := by
  obtain ⟨τ, hτ⟩ := exists_rowTransition (s := s) fun h => absurd h hf
  obtain ⟨t, ht⟩ := (runTransition_isNext_iff τ s).2 hτ
  exact ⟨τ, t, (selectTransition_eq_rowTransition fun h => absurd h hf).trans hτ, ht⟩

/-- A chunk that is not admitted selects no transition (R83). -/
theorem selectTransition_malformed {s : State} {c : Bytes} {rest : List LinkEvent} (hf : s.fsm = .idle)
    (hl : s.link = .data c :: rest) (ha : admitsChunk c s = false) : selectTransition s = none := by
  simp [selectTransition, hf, hl, ha]

/-- FR_LINK_DATA is selected exactly for an idle framer with an admitted chunk (R83). -/
theorem selectTransition_eq_linkData_iff (s : State) : selectTransition s = some .linkData ↔ s.fsm = .idle ∧
    ∃ c rest, s.link = .data c :: rest ∧ 1 ≤ c.length ∧ c.length ≤ s.params.readSize := by
  cases hf : s.fsm with
  | idle => simp [selectTransition_idle hf, admitsChunk_iff]
  | scan =>
    rw [selectTransition_scan hf]
    obtain ⟨h, _⟩ | ⟨h, _⟩ | ⟨h, _⟩ | ⟨h, _⟩ | ⟨h, _⟩ := selectScan_cases s.acc <;> simp [h]
  | finish => simp [selectTransition_finish hf]

/-- One entry of the trace of a cycle. -/
theorem cycleTrace_succ {s s' : State} {τ : Transition} (n : Nat) (hsel : selectTransition s = some τ)
    (hr : runTransition τ s = .next s') :
    cycleTrace (n + 1) s = if s'.fsm = .idle then [τ] else τ :: cycleTrace n s' := by
  rw [cycleTrace, hsel]; simp only [hr]

theorem cycleTrace_of_none {s : State} (h : selectTransition s = none) (n : Nat) : cycleTrace n s = [] := by
  cases n with
  | zero => rfl
  | succ n => rw [cycleTrace, h]

/-- The loop consumes at most as many times as bytes are held (R93). -/
theorem cycleTrace_consumes_le (n : Nat) : ∀ s : State, s.fsm ≠ .idle →
    ((cycleTrace n s).filter consumes).length ≤ s.acc.length := by
  induction n with
  | zero => intro s _; exact Nat.zero_le _
  | succ n ih =>
    intro s hf
    obtain ⟨τ, s', hsel, hr⟩ := exists_selected hf
    have hprogress := runTransition_progress hf hr
    rw [cycleTrace_succ n hsel hr]
    split_ifs with hidle
    · omega
    · have := ih s' hidle
      rw [← List.singleton_append, List.filter_append, List.length_append]
      omega

/-- A cycle consumes at most as many times as bytes are held after the append; the cycle of a refused chunk has an empty
trace (R83, R93). -/
theorem cycleTrace_data_consumes_le {s : State} {c : Bytes} {rest : List LinkEvent} (hf : s.fsm = .idle)
    (hl : s.link = .data c :: rest) (n : Nat) : ((cycleTrace n s).filter consumes).length ≤ (s.acc ++ c).length := by
  cases ha : admitsChunk c s with
  | false =>
    rw [cycleTrace_of_none (selectTransition_malformed hf hl ha)]
    exact Nat.zero_le _
  | true =>
    have hsel : selectTransition s = some .linkData := (selectTransition_idle hf).2 (.inl ⟨rfl, c, rest, hl, ha⟩)
    cases n with
    | zero => exact Nat.zero_le _
    | succ n =>
      rw [cycleTrace_succ n hsel (runTransition_linkData hf hl ha), if_neg (by simp)]
      exact cycleTrace_consumes_le n (afterLinkData c s) (by simp)

/-! ### No faults -/

theorem scanTransition_ne_fault {τ : Transition} {s : State} {e : Out} {r : Fault} (he : e ≠ .fault r) :
    scanTransition τ s e ≠ .fault r := by
  unfold scanTransition
  split
  · split
    · exact he
    · simp
  · simp

theorem runTransition_ne_fault (τ : Transition) (s : State) (r : Fault) : runTransition τ s ≠ .fault r := by
  cases τ with
  | linkData => rw [runTransition, execFrLinkData]; split <;> [split <;> simp; simp]
  | linkClosed => rw [runTransition, execFrLinkClosed]; split <;> simp
  | linkError => rw [runTransition, execFrLinkError]; split <;> simp
  | short | drop | wait | discard => exact scanTransition_ne_fault (by simp)
  | emit => exact scanTransition_ne_fault (by split <;> simp)
  | compact => rw [runTransition, execFrCompact]; split <;> simp

/-- READ_CYCLE of a framer in a cycle stops with the host's breach, and that of an idle one answers a next state (R93). -/
theorem execReadCycle_ne_fault (s : State) (r : Fault) : execReadCycle s ≠ .fault r := by
  by_cases hfree : framerFree s = true
  · obtain ⟨hf, hw⟩ := (framerFree_iff s).1 hfree
    rcases hl : s.link with _ | ⟨ev, rest⟩
    · simp [execReadCycle, hfree, hl]
    · cases ha : admitsEvent ev s with
      | true =>
        obtain ⟨t, ht, _⟩ := execReadCycle_event hf hw hl ha
        rw [ht]; simp
      | false => rw [execReadCycle_refuses hf hw hl ha]; simp
  · rw [execReadCycle, if_neg hfree]; simp

theorem exec_codec_ne_fault {i : Instr} (hi : framerOwned i = false) (s : State) (r : Fault) : exec i s ≠ .fault r := by
  obtain ⟨res, h⟩ | h := exec_of_not_framerOwned hi <;> rw [h s] <;> simp

/-- No instruction ends in a fault (R93, R105). -/
theorem exec_ne_fault (i : Instr) (s : State) (r : Fault) : exec i s ≠ .fault r := by
  cases i with
  | reset => rw [exec, execReset]; split <;> simp
  | readCycle => exact execReadCycle_ne_fault s r
  | serialize | deserialize | checksum | frameSize | reserved110 | reserved111 => exact exec_codec_ne_fault rfl s r
  | frLinkData => exact runTransition_ne_fault .linkData s r
  | frLinkClosed => exact runTransition_ne_fault .linkClosed s r
  | frLinkError => exact runTransition_ne_fault .linkError s r
  | frShort => exact runTransition_ne_fault .short s r
  | frDrop => exact runTransition_ne_fault .drop s r
  | frWait => exact runTransition_ne_fault .wait s r
  | frEmit => exact runTransition_ne_fault .emit s r
  | frDiscard => exact runTransition_ne_fault .discard s r
  | frCompact => exact runTransition_ne_fault .compact s r

/-! ### The statements -/

/-- Settles O39: READ_CYCLE on an admitted event is the run of transitions to IDLE in closed form, and each decision of the loop
is one equation of Extract. -/
theorem readCycleIsExtract : Obligations.ReadCycleIsExtract := by
  refine ⟨rfl, fun x => ?_, fun s c rest hf hw hl hpos hmax => ?_, fun s rest hf hw hl => ?_, fun s cause rest hf hw hl => ?_⟩
  · split_ifs with h5 h0 hT
    · exact extract_short h5
    · exact extract_drop (Nat.not_lt.1 h5) h0
    · exact extract_wait (Nat.not_lt.1 h5) (not_not.1 h0) hT
    · split
      · next f hd => exact extract_emit (Nat.not_lt.1 h5) (not_not.1 h0) (Nat.not_lt.1 hT) hd
      · next e hd => exact extract_discard (Nat.not_lt.1 h5) (not_not.1 h0) (Nat.not_lt.1 hT) hd
  · refine ⟨_, exec_readCycle_data hf hw hl hpos hmax, rfl, rfl, ?_, rfl, rfl, rfl, rfl, rfl, ?_⟩
    · exact congrArg List.tail hl
    · exact cycleEnd_acc_le_cap (Nat.le_add_right _ _)
  · obtain ⟨ev, hev, ha⟩ : ∃ ev, s.link = ev :: rest ∧ admitsEvent ev s = true := by
      obtain hl | hl := hl <;> exact ⟨_, hl, rfl⟩
    rw [exec, execReadCycle_admitted hf hw hev ha, runToIdle_closed hf hl]
    simp [respond, takeEvent, hev, hw]
  · rw [exec, execReadCycle_admitted hf hw hl rfl, runToIdle_error hf hl]
    simp [respond, takeEvent, hl, hw]

/-- Settles O45, by the induction over Extract's decisions in `extract_append`. -/
theorem chunkingLemma : Obligations.ChunkingLemma := extract_append

/-- Settles O46: by induction on the events, each cycle is a piece of Extract of the stream; and fewer than 5 bytes hold no
frame. -/
theorem framesIndependentOfChunking : Obligations.FramesIndependentOfChunking := by
  refine ⟨fun s evs h hacc => ?_, fun m x _ hm => extractWith_frames hm x x.length (Nat.le_refl _)⟩
  obtain ⟨t, rs, hrun, hres, hx⟩ := h.run_of_nil hacc
  exact ⟨t, rs, hrun, hres, (congrArg Prod.snd hx).symm, (congrArg Prod.fst hx).symm⟩

/-- Settles O47: Extract of the whole stream passes over the noise and finds the frame. -/
theorem resyncFindsTheFrame : Obligations.ResyncFindsTheFrame := by
  intro noise body s evs hn hpos hmax hstream h hacc
  obtain ⟨t, rs, hrun, hres, hx⟩ := h.run_of_nil hacc
  rw [hstream, serializeBody, extract_noise_serializeFrame hn (makeFrame_wf hpos hmax)] at hx
  obtain ⟨hrest, hframes⟩ := Prod.mk.inj hx
  exact ⟨t, rs, hrun, hres, hframes.symm, hrest.symm⟩

/-- Settles O49: Extract of the two frames' bytes is the two frames. -/
theorem concatenatedFrames : Obligations.ConcatenatedFrames := by
  intro a b s hapos hamax hbpos hbmax hacc
  have hx : extract (serializeBody a ++ serializeBody b) = ([], [makeFrame a, makeFrame b]) := by
    rw [serializeBody, extract_serializeFrame_append (makeFrame_wf hapos hamax), serializeBody,
      extract_serializeFrame (makeFrame_wf hbpos hbmax)]
  refine ⟨fun rest hf hw hl hmax => ?_, fun evs h hstream => ?_⟩
  · have hpos : 1 ≤ (serializeBody a ++ serializeBody b).length := by
      rw [List.length_append, serializeBody, serializeFrame_length]; omega
    exact exec_readCycle_of_extract hf hw hl hpos hmax (by rw [hacc, List.nil_append, hx])
  · obtain ⟨t, rs, hrun, hres, ht⟩ := h.run_of_nil hacc
    rw [hstream, hx] at ht
    obtain ⟨hrest, hframes⟩ := Prod.mk.inj ht
    exact ⟨t, rs, hrun, hrest.symm, hres, hframes.symm⟩

/-- Settles O50: what Extract leaves of `g` is noise before the frame; noise leaves noise, being dropped from the front; and a
block at the head that does not decode is lost whole. -/
theorem recoveryAfterCorruption : Obligations.RecoveryAfterCorruption := by
  refine ⟨fun g body hpos hmax hg => ?_, fun g hg b hb => ?_, fun blk y e h0 hT he h5 => ⟨?_, ?_⟩⟩
  · rw [extract_append, serializeBody, extract_noise_serializeFrame hg (makeFrame_wf hpos hmax)]
  · obtain ⟨n, hn⟩ := extract_fst_eq_drop g
    rw [hn] at hb
    exact hg b (List.mem_of_mem_drop hb)
  · exact extract_append_of_error h0 hT y he h5
  · have := length_eq_of_block hT
    have := (lenField blk).isLt
    omega

/-- Settles O38: a block can fail to decode only by an empty body or by its sum, and what the length field of the accumulator's
head cuts off is a block. -/
theorem framerDecodeFailures : Obligations.FramerDecodeFailures := by
  refine ⟨fun blk h0 hT => ?_, fun s hf h5 h0 hT => ?_⟩
  · obtain ⟨hL, he⟩ | ⟨hL, hsum, he⟩ | ⟨hL, hsum, f, he⟩ := deserializeBytes_block h0 hT <;> rw [he]
    · simp [hL]
    · have hne := Nat.one_le_iff_ne_zero.1 hL
      exact ⟨fun e h => .inr (Except.error.inj h).symm, by simp [hne], iff_of_true rfl ⟨hL, hsum⟩⟩
    · have hne := Nat.one_le_iff_ne_zero.1 hL
      exact ⟨by simp, by simp [hne], by simp [hsum]⟩
  · obtain ⟨hd, hfield, hlen⟩ := block_of_take h0 hT
    have hemit : (∃ t, exec .frEmit s = .next t) ↔ ∃ f, deserializeBytes s.block = .ok f := by
      refine (exec_instr_isNext_iff .emit s).trans ((rowTransition_eq_some_iff .emit s).trans ?_)
      exact ⟨fun ⟨_, _, _, _, hok⟩ => hok, fun hok => ⟨hf, h5, h0, hT, hok⟩⟩
    have hblock := deserializeBytes_block_ok_iff hd (by rw [hfield, hlen])
    rw [hfield] at hblock
    exact hemit.trans hblock

/-- Settles O43: each transition's effect on the accumulator, along the trace of a cycle; and no instruction answers a fault. -/
theorem readCycleTerminates : Obligations.ReadCycleTerminates := by
  refine ⟨fun s t h => ?_, fun s t h => ?_, fun s c rest hf hl => cycleTrace_data_consumes_le hf hl _, exec_ne_fault⟩
  · obtain h | h | h := h
    · exact runTransition_shrinks (τ := .drop) h rfl
    · exact runTransition_shrinks (τ := .emit) h rfl
    · exact runTransition_shrinks (τ := .discard) h rfl
  · obtain h | h := h <;> obtain ⟨_, _, ht⟩ := scanTransition_next h <;> rw [← Host.Outcome.next.inj ht, setFsm_fsm]

/-- Settles O44: both cycles are `cycleResult` and `cycleAcc` of the accumulator and the event. -/
theorem readCycleDeterminedByAccAndEvent : Obligations.ReadCycleDeterminedByAccAndEvent := by
  intro s s' ev rest rest' hf hw hl ha hf' hw' hl' ha' hacc
  obtain ⟨t, ht, _, _, _, _, _, htacc, htres⟩ := execReadCycle_event hf hw hl ha
  obtain ⟨t', ht', _, _, _, _, _, htacc', htres'⟩ := execReadCycle_event hf' hw' hl' ha'
  rw [← hacc] at htacc' htres'
  exact ⟨t, t', _, ht, ht', htacc.trans htacc'.symm, htres, htres'⟩

/-- Settles O48: Extract of a frame without its last bytes finds nothing and keeps them; of the whole frame, the frame. -/
theorem partialDelivery : Obligations.PartialDelivery := by
  intro body p c y s rest hpos hmax hframe hf hw hacc hl hcpos hcmax
  have hwf := makeFrame_wf hpos hmax
  by_cases hy : y = []
  · rw [hy, List.append_nil] at hframe
    have hx : extract (s.acc ++ c) = ([], [makeFrame body]) := by
      rw [hacc, hframe, serializeBody, extract_serializeFrame hwf]
    obtain ⟨t, ht, htacc, htres⟩ := exec_readCycle_of_extract hf hw hl hcpos hcmax hx
    exact ⟨t, ht, fun h => absurd hy h, fun _ => ⟨htacc, htres⟩⟩
  · have hx : extract (s.acc ++ c) = (p ++ c, []) := by
      rw [hacc, extract_of_quiescent (quiescent_of_frame_cut hwf hframe hy)]
    obtain ⟨t, ht, htacc, htres⟩ := exec_readCycle_of_extract hf hw hl hcpos hcmax hx
    exact ⟨t, ht, fun _ => ⟨htacc, htres⟩, fun h => absurd h hy⟩

/-- Settles O29: `runTransition_linkClosed`, with its updates written out. -/
theorem linkClosedTransition : Obligations.LinkClosedTransition := by
  intro s ev rest hf hl hev
  have hlink : s.link = .empty :: rest ∨ s.link = .closed :: rest := by
    obtain rfl | rfl := hev
    · exact .inl hl
    · exact .inr hl
  refine ⟨false, (runTransition_linkClosed hf hlink).trans ?_⟩
  simp [respond, takeEvent, hl]

/-- Settles O30: `runTransition_linkError`, with its updates written out. -/
theorem linkErrorTransition : Obligations.LinkErrorTransition := by
  intro s cause rest hf hl
  refine ⟨false, (runTransition_linkError hf hl).trans ?_⟩
  simp [respond, takeEvent, hl]

/-- Settles O31: FR_SHORT is selected. -/
theorem shortTransition : Obligations.ShortTransition :=
  fun _ hf h5 => scanTransition_selected hf (selectScan_short h5)

/-- Settles O32: FR_DROP is selected. -/
theorem dropTransition : Obligations.DropTransition :=
  fun _ hf h5 h0 => scanTransition_selected hf (selectScan_drop h5 h0)

/-- Settles O33: FR_WAIT is selected. -/
theorem waitTransition : Obligations.WaitTransition :=
  fun _ hf h5 h0 hT => scanTransition_selected hf (selectScan_wait h5 h0 hT)

/-- Settles O34: FR_EMIT is selected, and a decoded frame is well-formed. -/
theorem emitTransition : Obligations.EmitTransition := by
  intro s f hf h5 h0 hT hd
  have hblock : deserializeBytes s.block = .ok f := hd
  refine ⟨?_, wf_of_deserializeBytes hd⟩
  rw [exec, execFrEmit, hblock, scanTransition_selected hf (selectScan_emit h5 h0 hT hd)]
  rfl

/-- Settles O35: FR_DISCARD is selected. -/
theorem discardTransition : Obligations.DiscardTransition :=
  fun _ _ hf h5 h0 hT hd => scanTransition_selected hf (selectScan_discard h5 h0 hT hd)

/-- Settles O36: FR_COMPACT runs in FINISH, and `compactedCap` is the rule of R95. -/
theorem compactTransition : Obligations.CompactTransition := by
  intro s hf
  exact ⟨[], by rw [exec, execFrCompact, hf]; rfl⟩

/-- Settles O60: an idle framer with an admitted chunk selects FR_LINK_DATA, which appends it; a chunk that is not admitted
selects nothing and is refused. -/
theorem linkDataSelected : Obligations.LinkDataSelected := by
  refine ⟨selectTransition_eq_linkData_iff, fun s c rest hsel hl => ?_, fun s c rest hf hw hl hc => ?_⟩
  · obtain ⟨hf, c', rest', hl', hpos, hmax⟩ := (selectTransition_eq_linkData_iff s).1 hsel
    obtain ⟨hcc, _⟩ := List.cons.inj (hl.symm.trans hl')
    obtain rfl := LinkEvent.data.inj hcc
    refine ⟨_, runTransition_linkData hf hl ((admitsChunk_iff c s).2 ⟨hpos, hmax⟩), rfl, rfl, rfl, rfl, rfl, fun hs => ?_⟩
    rw [afterLinkData_acc, List.length_append]
    omega
  · have ha := admitsChunk_eq_false hc
    have hsel := selectTransition_malformed hf hl ha
    exact ⟨hsel, cycleTrace_of_none hsel, _, execReadCycle_refuses hf hw hl ha, rfl, rfl, hf, rfl⟩

end Machine
end Sys2Proof

/-! PROOFS. The statement of 60_exceptions.md: the status codes and the commands that raise them (R106). -/

namespace Sys2Proof

namespace Machine

/-! ### The codes -/

theorem errorStatus_ne_zero (e : Error) : errorStatus e ≠ 0 := by
  cases e <;> simp [errorStatus]

theorem errorStatus_le_six (e : Error) : (errorStatus e).toNat ≤ 6 := by
  cases e <;> simp [errorStatus]

/-- Only an error has a status other than 0 (R105, R106). -/
theorem resultStatus_eq_zero_iff (r : Result) : resultStatus r = 0 ↔ ∀ e, r ≠ .err e := by
  cases r with
  | err e => exact iff_of_false (errorStatus_ne_zero e) fun h => h e rfl
  | done | frames | bytes | frame | checksum | size => exact iff_of_true rfl fun _ => Result.noConfusion

theorem resultStatus_le_six (r : Result) : (resultStatus r).toNat ≤ 6 := by
  cases r with
  | err e => exact errorStatus_le_six e
  | done | frames | bytes | frame | checksum | size => exact Nat.zero_le 6

/-! ### Which instruction raises an error -/

/-- The checks of Deserialize have the codes 1 to 4 (R70, R106). -/
theorem errorStatus_of_deserializeBytes {b : Bytes} {e : Error} (h : deserializeBytes b = .error e) :
    (errorStatus e).toNat ≤ 4 := by
  rw [deserializeBytes_eq] at h
  split_ifs at h <;> obtain rfl := Except.error.inj h <;> decide

theorem deserializeResult_eq_err_iff (b : Bytes) (e : Error) : deserializeResult b = .err e ↔ deserializeBytes b = .error e := by
  rw [deserializeResult]
  cases deserializeBytes b <;> simp

/-- Of the codec agent's commands, DESERIALIZE alone returns an error: the one of Deserialize (R69). -/
theorem deserialize_of_exec_err {i : Instr} {s t : State} {e : Error} (hi : framerOwned i = false) (h : exec i s = .next t)
    (hres : t.results = s.results ++ [.err e]) : ∃ b, i = .deserialize b ∧ deserializeBytes b = .error e := by
  cases i with
  | serialize b => obtain ⟨_, rfl⟩ | ⟨_, rfl⟩ := answerIf_next h <;> simp at hres
  | deserialize b =>
    obtain rfl := Host.Outcome.next.inj h
    exact ⟨b, rfl, (deserializeResult_eq_err_iff b e).1 (by simpa using hres)⟩
  | checksum | frameSize | reserved110 | reserved111 => obtain rfl := Host.Outcome.next.inj h; simp at hres
  | reset | readCycle | frLinkData | frLinkClosed | frLinkError | frShort | frDrop | frWait | frEmit | frDiscard
  | frCompact => exact absurd hi (by decide)

/-- READ_CYCLE returns no error but the link's (R84, R85). -/
theorem cycleResult_err {acc : Bytes} {ev : LinkEvent} {e : Error} (h : cycleResult acc ev = .err e) :
    5 ≤ (errorStatus e).toNat := by
  cases ev with
  | data c => exact absurd h Result.noConfusion
  | empty | closed | error => obtain rfl := Result.err.inj h; simp [errorStatus]

theorem execReadCycle_err {s t : State} {e : Error} (h : execReadCycle s = .next t)
    (hres : t.results = s.results ++ [.err e]) : 5 ≤ (errorStatus e).toNat := by
  obtain ⟨hfree, ⟨_, rfl⟩ | ⟨ev, rest, hl, ⟨_, rfl⟩ | ⟨ha, _⟩⟩⟩ := execReadCycle_next h
  · simp at hres
  · simp at hres
  · obtain ⟨hf, hw⟩ := (framerFree_iff s).1 hfree
    obtain ⟨t', ht', _, _, _, _, _, _, hcycle⟩ := execReadCycle_event hf hw hl ha
    obtain rfl := Host.Outcome.next.inj (ht'.symm.trans h)
    exact cycleResult_err (acc := s.acc) (ev := ev) (by simpa using hcycle.symm.trans hres)

/-- Of the transitions, FR_LINK_CLOSED and FR_LINK_ERROR alone return an error: the link's (R84, R85). -/
theorem runTransition_err {τ : Transition} {s t : State} {e : Error} (h : runTransition τ s = .next t)
    (hres : t.results = s.results ++ [.err e]) : (τ = .linkClosed ∨ τ = .linkError) ∧ 5 ≤ (errorStatus e).toNat := by
  obtain ⟨_, _, _, _, _, _, rfl⟩ | ⟨_, _, _, _, _, _, rfl⟩ | ⟨hτ, _, _, rfl⟩ | ⟨hτ, _, cause, _, _, rfl⟩ | ⟨_, _, _, rfl⟩ |
    ⟨_, _, _, rfl⟩ | ⟨_, _, _, _, _, rfl⟩ | ⟨_, _, _, rfl⟩ | ⟨_, _, rfl⟩ := runTransition_next h
  iterate 2 simp at hres
  · obtain rfl : Error.linkClosed = e := by simpa using hres
    exact ⟨.inl hτ, by decide⟩
  · obtain rfl : Error.linkReadError cause = e := by simpa using hres
    exact ⟨.inr hτ, by simp [errorStatus]⟩
  iterate 5 simp at hres

/-- Whatever instruction returns an error is DESERIALIZE with a code up to 4, or a read cycle or its transition on a link event
without data, with a code from 5 (R106). -/
theorem exec_err {i : Instr} {s t : State} {e : Error} (h : exec i s = .next t) (hres : t.results = s.results ++ [.err e]) :
    ((∃ b, i = .deserialize b) ∧ (errorStatus e).toNat ≤ 4) ∨
      ((i = .readCycle ∨ i = .frLinkClosed ∨ i = .frLinkError) ∧ 5 ≤ (errorStatus e).toNat) := by
  have hcodec (hi : framerOwned i = false) : (∃ b, i = .deserialize b) ∧ (errorStatus e).toNat ≤ 4 := by
    obtain ⟨b, hb, he⟩ := deserialize_of_exec_err hi h hres
    exact ⟨⟨b, hb⟩, errorStatus_of_deserializeBytes he⟩
  obtain ⟨_, hi, _⟩ | ⟨hi, _⟩ | ⟨_, _, rfl⟩ | ⟨rfl, _⟩ | ⟨τ, rfl, hr⟩ := exec_next h
  · exact .inl (hcodec hi)
  · exact .inl (hcodec hi)
  · simp at hres
  · exact .inr ⟨.inl rfl, execReadCycle_err h hres⟩
  · obtain ⟨rfl | rfl, he⟩ := runTransition_err hr hres
    · exact .inr ⟨.inr (.inl rfl), he⟩
    · exact .inr ⟨.inr (.inr rfl), he⟩

/-! ### The statement -/

/-- Settles O58: the codes are the table's by definition, and `exec_err` says which instruction raised an error. -/
theorem statusCodes : Obligations.StatusCodes := by
  refine ⟨⟨rfl, rfl, rfl, rfl, fun _ => rfl, rfl⟩, fun r => ⟨resultStatus_le_six r, resultStatus_eq_zero_iff r⟩,
    fun i s t e h hres => ?_⟩
  obtain ⟨hi, he⟩ | ⟨hi, he⟩ := exec_err h hres
  · exact ⟨fun _ => hi, fun h5 => absurd h5 (by omega)⟩
  · exact ⟨fun h4 => absurd h4 (by omega), fun _ => hi⟩

end Machine
end Sys2Proof

/-! PROOFS. The statements of 70_reset_and_hazards.md: the state at power-on (R121) and the RESET command (R122). -/

namespace Sys2Proof

namespace Machine

/-- RESET with no read cycle in progress clears the framer and returns `Ok(())` (R122). -/
theorem exec_reset_of_idle {s : State} (hf : s.fsm = .idle) (hw : s.waiting = false) :
    exec .reset s = .next (respond .done (clearFramer s)) :=
  if_pos ((framerFree_iff s).2 ⟨hf, hw⟩)

/-! ### The statements -/

/-- Settles O25: an idle framer is cleared, and the result appended. -/
theorem resetCommandResult : Obligations.ResetCommandResult := by
  refine ⟨rfl, fun s hf hw => ⟨_, exec_reset_of_idle hf hw, ?_⟩⟩
  simp [hw]

/-- Settles O27: the one next state of RESET is the cleared framer with a result appended. -/
theorem resetStateValues : Obligations.ResetStateValues := by
  refine ⟨⟨rfl, rfl, rfl, rfl⟩, fun s t h => ?_⟩
  obtain ⟨_, rfl⟩ := execReset_next h
  exact ⟨rfl, rfl, rfl, rfl, rfl⟩

end Machine
end Sys2Proof

/-! PROOFS. The invariant of the machine and what every step keeps (R17, R18, R21, R23, R121), the round trip of the commands
(R54 to R57), what a step runs (R38, R43, R44), and the waits: for the link (R33) and behind a false start (R126). -/

namespace Sys2Proof

/-! ### The round trip of a command -/

theorem Command.eq_ofNat {c : Command} {n : Nat} {o : Operand} (hop : c.op.toNat = n) (ho : c.operand = o) :
    c = ⟨BitVec.ofNat 3 n, o⟩ := by
  obtain ⟨op, operand⟩ := c
  subst hop ho
  simp

theorem decodeCommand_encodeCommand {i : Instr} {c : Command} (h : encodeCommand i = some c) : decodeCommand c = .ok i := by
  cases i with
  | reset | readCycle | serialize | deserialize | checksum | frameSize | reserved110 | reserved111 =>
    obtain rfl := Option.some.inj h; rfl
  | frLinkData | frLinkClosed | frLinkError | frShort | frDrop | frWait | frEmit | frDiscard | frCompact =>
    exact absurd h (by simp [encodeCommand])

/-- A pair that decodes has the code of its command, and but for a reserved code is its encoding (R54 to R57). -/
theorem encodeCommand_of_decodeCommand {c : Command} {i : Instr} (h : decodeCommand c = .ok i) :
    ∃ c', encodeCommand i = some c' ∧ c'.op = c.op ∧ (i ≠ .reserved110 → i ≠ .reserved111 → c' = c) := by
  unfold decodeCommand at h
  split at h
  case h_7 hop =>
    obtain rfl := Except.ok.inj h
    exact ⟨_, rfl, (BitVec.eq_of_toNat_eq hop).symm, fun h110 => absurd rfl h110⟩
  case h_8 hop =>
    obtain rfl := Except.ok.inj h
    exact ⟨_, rfl, (BitVec.eq_of_toNat_eq hop).symm, fun _ h111 => absurd rfl h111⟩
  case h_9 => exact absurd h (by simp)
  all_goals
    next hop ho =>
      obtain rfl := Except.ok.inj h
      obtain rfl := Command.eq_ofNat hop ho
      exact ⟨_, rfl, rfl, fun _ _ => rfl⟩

namespace Machine

/-! ### What a step runs -/

section Step

variable {s : State} {c : Command} {rest : List Command} {i : Instr}

theorem step_of_fetch_run {t : State} (h : fetch s = .run i t) : step s = exec i t := by rw [step, h]

theorem step_of_fetch_wait (h : fetch s = .wait) : step s = .next s := by rw [step, h]

theorem step_of_fetch_malformed {e : DecodeError} (h : fetch s = .malformed e) : step s = .refused .operandForm := by
  rw [step, h]

/-- An idle framer turns to its command port unless a READ_CYCLE waits and the link has an event (R33). -/
theorem fetch_eq_fetchCommand (hf : s.fsm = .idle) (h : s.waiting = false ∨ s.link = []) : fetch s = fetchCommand s := by
  obtain h | h := h <;> simp [fetch, hf, h]

/-- A READ_CYCLE that waits goes on as soon as the link has an event (R33). -/
theorem fetch_of_event (hf : s.fsm = .idle) (hw : s.waiting = true) (hl : s.link ≠ []) :
    fetch s = .run .readCycle { s with waiting := false } := by
  simp [fetch, hf, hw, hl]

theorem fetchCommand_nil (hc : s.commands = []) : fetchCommand s = .wait := by rw [fetchCommand, hc]

theorem fetchCommand_malformed {e : DecodeError} (hc : s.commands = c :: rest) (hd : decodeCommand c = .error e) :
    fetchCommand s = .malformed e := by
  simp [fetchCommand, hc, hd]

/-- A command runs unless it is the framer's and a READ_CYCLE waits (R40, R44). -/
theorem fetchCommand_run (hc : s.commands = c :: rest) (hd : decodeCommand c = .ok i)
    (h : s.waiting = false ∨ framerOwned i = false) : fetchCommand s = .run i { s with commands := rest } := by
  obtain h | h := h <;> simp [fetchCommand, hc, hd, h]

theorem fetchCommand_held (hc : s.commands = c :: rest) (hd : decodeCommand c = .ok i) (hw : s.waiting = true)
    (hi : framerOwned i = true) : fetchCommand s = .wait := by
  simp [fetchCommand, hc, hd, hw, hi]

/-- In the middle of a cycle the selected transition runs (R59). -/
theorem fetch_of_cycle (hf : s.fsm ≠ .idle) : ∃ τ, selectTransition s = some τ ∧ fetch s = .run τ.instr s := by
  cases hfsm : s.fsm with
  | idle => exact absurd hfsm hf
  | scan => exact ⟨_, selectTransition_scan hfsm, by rw [fetch, hfsm]⟩
  | finish => exact ⟨_, selectTransition_finish hfsm, by rw [fetch, hfsm]; rfl⟩

/-- An idle framer runs the first command, taken off the port (R38, R43). -/
theorem step_command (hf : s.fsm = .idle) (hw : s.waiting = false) (hc : s.commands = c :: rest) (hd : decodeCommand c = .ok i) :
    step s = exec i { s with commands := rest } :=
  step_of_fetch_run ((fetch_eq_fetchCommand hf (.inl hw)).trans (fetchCommand_run hc hd (.inl hw)))

/-- While a READ_CYCLE waits for the link, RESET and READ_CYCLE stay on the port and the codec's commands are served (R40,
R44). -/
theorem step_command_of_waiting (hf : s.fsm = .idle) (hw : s.waiting = true) (hl : s.link = []) (hc : s.commands = c :: rest)
    (hd : decodeCommand c = .ok i) :
    step s = if i = .reset ∨ i = .readCycle then .next s else exec i { s with commands := rest } := by
  have hfetch := fetch_eq_fetchCommand hf (.inr hl)
  split_ifs with hi
  · have howned : framerOwned i = true := by obtain rfl | rfl := hi <;> rfl
    exact step_of_fetch_wait (hfetch.trans (fetchCommand_held hc hd hw howned))
  · obtain ⟨c', hc', _⟩ := encodeCommand_of_decodeCommand hd
    have howned := framerOwned_of_command ⟨c', hc'⟩ (fun h => hi (.inl h)) (fun h => hi (.inr h))
    exact step_of_fetch_run (hfetch.trans (fetchCommand_run hc hd (.inr howned)))

/-- Without a command and without an event for a READ_CYCLE the machine stays as it is (R127). -/
theorem step_waits (hf : s.fsm = .idle) (h : s.waiting = false ∨ s.link = []) (hc : s.commands = []) : step s = .next s :=
  step_of_fetch_wait ((fetch_eq_fetchCommand hf h).trans (fetchCommand_nil hc))

end Step

/-! ### The words of the opcode table -/

theorem decodeTableWord_lt {w : Nat} {i : Instr} (h : decodeTableWord 8 w = some i) (hw : w < 8) :
    decodeCommand (tableCommand w) = .ok i := by
  rw [decodeTableWord, if_neg (by omega), if_pos hw] at h
  split at h
  · next hd => rw [hd, Option.some.inj h]
  · exact absurd h (by simp)

theorem decodeTableWord_ge {w : Nat} {i : Instr} (h : decodeTableWord 8 w = some i) (hw : ¬ w < 8) :
    (selectScan (tableAcc w)).instr = i := by
  rw [decodeTableWord] at h
  split at h
  · exact absurd h (by simp)
  · exact Option.some.inj h

/-- A step on a placed word runs the instruction the word stands for. -/
theorem step_withFetchWord {s : State} {w : Nat} {i : Instr} (h : decodeTableWord 8 w = some i) :
    ∃ t, step (s.withFetchWord 8 w) = exec i t ∧ t.link = s.link ∧ t.results = s.results ∧ t.refused = s.refused ∧
      t.commands = s.commands := by
  by_cases hw : w < 8
  · have hplace : s.withFetchWord 8 w =
        { s with fsm := .idle, waiting := false, commands := tableCommand w :: s.commands } := if_pos hw
    rw [hplace]
    exact ⟨_, step_command rfl rfl rfl (decodeTableWord_lt h hw), rfl, rfl, rfl, rfl⟩
  · have hplace : s.withFetchWord 8 w = { s with fsm := .scan, acc := tableAcc w } := if_neg hw
    rw [hplace, ← decodeTableWord_ge h hw]
    exact ⟨_, step_of_fetch_run rfl, rfl, rfl, rfl, rfl⟩

/-! ### RESET and READ_CYCLE during a cycle, and without an event -/

theorem framerFree_eq_false {s : State} (h : s.fsm ≠ .idle ∨ s.waiting = true) : framerFree s = false := by
  obtain h | h := h <;> simp [framerFree, h]

/-- READ_CYCLE of an idle framer blocks while the link has no event (R33). -/
theorem execReadCycle_blocks {s : State} (hf : s.fsm = .idle) (hw : s.waiting = false) (hl : s.link = []) :
    execReadCycle s = .next (blockOnLink s) := by
  rw [execReadCycle, if_pos ((framerFree_iff s).2 ⟨hf, hw⟩), hl]

/-! ### The parameters -/

theorem runTransition_keeps_params {τ : Transition} {s t : State} (h : runTransition τ s = .next t) : t.params = s.params := by
  obtain ⟨_, _, _, _, _, _, rfl⟩ | ⟨_, _, _, _, _, _, rfl⟩ | ⟨_, _, _, rfl⟩ | ⟨_, _, _, _, _, rfl⟩ | ⟨_, _, _, rfl⟩ |
    ⟨_, _, _, rfl⟩ | ⟨_, _, _, _, _, rfl⟩ | ⟨_, _, _, rfl⟩ | ⟨_, _, rfl⟩ := runTransition_next h <;> rfl

theorem exec_keeps_params {i : Instr} {s t : State} (h : exec i s = .next t) : t.params = s.params := by
  obtain ⟨r, _, rfl⟩ | ⟨_, rfl⟩ | ⟨_, _, rfl⟩ | ⟨_, _, ⟨_, rfl⟩ | ⟨ev, rest, _, ⟨_, rfl⟩ | ⟨_, hr⟩⟩⟩ | ⟨τ, _, hr⟩ :=
    exec_next h
  iterate 5 rfl
  · exact runToIdle_keeps (P := fun u => u.params = s.params) (fun _ _ _ hs hr => (runTransition_keeps_params hr).trans hs)
      _ s t rfl hr
  · exact runTransition_keeps_params hr

/-! ### The invariant under each operation -/

section Inv

variable {s : State}

theorem respond_keeps_inv {r : Result} (hs : s.Inv) (hr : resultWf r = true) : (respond r s).Inv := by
  refine { hs with frames := ⟨hs.frames.1, fun r' hr' => ?_⟩ }
  obtain hmem | hmem := List.mem_append.1 hr'
  · exact hs.frames.2 r' hmem
  · rwa [List.mem_singleton.1 hmem]

theorem refuse_keeps_inv (hs : s.Inv) : (refuse s).Inv := { hs with }

theorem takeEvent_keeps_inv (hs : s.Inv) : (takeEvent s).Inv := { hs with waits := by simp }

theorem refuseEvent_keeps_inv (hs : s.Inv) : (refuseEvent s).Inv := refuse_keeps_inv (takeEvent_keeps_inv hs)

theorem blockOnLink_keeps_inv (hf : s.fsm = .idle) (hs : s.Inv) : (blockOnLink s).Inv := { hs with waits := fun _ => hf }

theorem length_freeBytes (draw n : Nat) : (freeBytes draw n).length = n := by simp [freeBytes]

theorem clearFramer_keeps_inv (hs : s.Inv) : (clearFramer s).Inv where
  params := hs.params
  idle _ := ⟨.inl (Nat.zero_lt_succ 4), rfl⟩
  finish := by simp
  bound _ := Nat.zero_le _
  depth := Nat.zero_le _
  capacity := Nat.zero_le _
  scratch := length_freeBytes _ _
  frames := ⟨by simp, hs.frames.2⟩
  waits _ := rfl

/-- An admitted chunk is appended to at most 65538 bytes, so the depth of the accumulator holds it (R11, R17). -/
theorem afterLinkData_keeps_inv {c : Bytes} (hf : s.fsm = .idle) (ha : admitsChunk c s = true) (hs : s.Inv) :
    (afterLinkData c s).Inv := by
  have hc := ((admitsChunk_iff c s).1 ha).2
  have hbound := hs.bound (by simp [hf])
  have hscratch : (c ++ freeBytes s.draws (s.params.readSize - c.length)).length = s.params.readSize := by
    rw [List.length_append, length_freeBytes, Nat.add_sub_cancel' hc]
  have hdepth : (s.acc ++ c).length ≤ accDepth s.params := by
    rw [List.length_append, accDepth]; omega
  exact { params := hs.params, idle := by simp, finish := by simp, bound := fun h => absurd rfl h, depth := hdepth,
          capacity := Nat.le_add_right _ _, scratch := hscratch, frames := ⟨by simp [afterLinkData], hs.frames.2⟩,
          waits := fun h => absurd h (by simp [afterLinkData]) }

theorem accDrop_keeps_inv (n : Nat) (hf : s.fsm = .scan) (hs : s.Inv) : (accDrop n s).Inv := by
  have hle : (s.acc.drop n).length ≤ s.acc.length := by rw [List.length_drop]; exact Nat.sub_le _ _
  exact { hs with
    idle := by simp [hf]
    finish := by simp [hf]
    bound := fun h => absurd hf h
    depth := hle.trans hs.depth
    capacity := hle.trans hs.capacity }

theorem emitFrame_keeps_inv {f : Frame} (hf : s.fsm = .scan) (hwf : f.wf = true) (hs : s.Inv) : (emitFrame f s).Inv := by
  refine { hs with idle := by simp [hf], frames := ⟨fun g hg => ?_, hs.frames.2⟩ }
  obtain hmem | hmem := List.mem_append.1 hg
  · exact hs.frames.1 g hmem
  · rwa [List.mem_singleton.1 hmem]

/-- The loop may end where the accumulator is quiescent, hence within the bound between operations (R17, R18). -/
theorem setFsm_finish_keeps_inv (hf : s.fsm = .scan) (hq : Quiescent s.acc) (hs : s.Inv) : (setFsm .finish s).Inv :=
  { hs with
    idle := by simp
    finish := fun _ => hq
    bound := fun _ => length_le_of_quiescent hq
    waits := fun h => absurd (hf.symm.trans (hs.waits h)) (by decide) }

theorem le_compactedCap {threshold cap len : Nat} (h : len ≤ cap) : len ≤ compactedCap threshold cap len := by
  rw [compactedCap]; split_ifs <;> omega

theorem compactStorage_keeps_inv (hs : s.Inv) : (compactStorage s).Inv :=
  { hs with capacity := le_compactedCap hs.capacity }

/-- The frames found are returned, and the framer is idle on the accumulator the loop ended on (R95, R96). -/
theorem compact_keeps_inv (hf : s.fsm = .finish) (hs : s.Inv) :
    (clearOut (setFsm .idle (respond (.frames s.out) (compactStorage s)))).Inv := by
  have hres := respond_keeps_inv (r := .frames s.out) (compactStorage_keeps_inv hs) (List.all_eq_true.2 hs.frames.1)
  exact { hres with
    idle := fun _ => ⟨hs.finish hf, rfl⟩
    finish := by simp
    bound := fun _ => hs.bound (by simp [hf])
    frames := ⟨by simp, hres.frames.2⟩
    waits := fun _ => rfl }

end Inv

/-! ### The invariant under each instruction -/

/-- The loop ends only on a quiescent accumulator (R18, R86, R88). -/
theorem quiescent_of_selectScan {x : Bytes} (h : selectScan x = .short ∨ selectScan x = .wait) : Quiescent x := by
  obtain ⟨_, hlen⟩ | ⟨ht, _⟩ | ⟨_, _, h0, hT⟩ | ⟨ht, _⟩ | ⟨ht, _⟩ := selectScan_cases x
  · exact .inl hlen
  · simp [ht] at h
  · exact .inr ⟨h0, hT⟩
  · simp [ht] at h
  · simp [ht] at h

theorem runTransition_keeps_inv {τ : Transition} {s t : State} (hs : s.Inv) (h : runTransition τ s = .next t) : t.Inv := by
  obtain ⟨_, hf, c, _, _, ha, rfl⟩ | ⟨_, _, _, _, _, _, rfl⟩ | ⟨_, _, _, rfl⟩ | ⟨_, _, _, _, _, rfl⟩ | ⟨hτ, hf, ht, rfl⟩ |
    ⟨_, hf, _, rfl⟩ | ⟨_, hf, _, f, hd, rfl⟩ | ⟨_, hf, _, rfl⟩ | ⟨_, hf, rfl⟩ := runTransition_next h
  · exact afterLinkData_keeps_inv hf ha hs
  · exact refuseEvent_keeps_inv hs
  · exact respond_keeps_inv (takeEvent_keeps_inv hs) rfl
  · exact respond_keeps_inv (takeEvent_keeps_inv hs) rfl
  · exact setFsm_finish_keeps_inv hf (quiescent_of_selectScan (by rwa [ht])) hs
  · exact accDrop_keeps_inv 1 hf hs
  · exact accDrop_keeps_inv s.blockSize (s := emitFrame f s) hf (emitFrame_keeps_inv hf (wf_of_deserializeBytes hd) hs)
  · exact accDrop_keeps_inv s.blockSize hf hs
  · exact compact_keeps_inv hf hs

theorem resultWf_deserializeResult (b : Bytes) : resultWf (deserializeResult b) = true := by
  rw [deserializeResult]
  split
  · next hd => exact wf_of_deserializeBytes hd
  · rfl

/-- A codec command returns one result, whose frame is well-formed, or is refused (R21, R25, R73). -/
theorem exec_codec_resultWf {i : Instr} {s t : State} (hi : framerOwned i = false) (h : exec i s = .next t) :
    (∃ r, resultWf r = true ∧ t = respond r s) ∨ t = refuse s := by
  cases i with
  | serialize b =>
    obtain ⟨_, rfl⟩ | ⟨_, rfl⟩ := answerIf_next h
    · exact .inl ⟨_, rfl, rfl⟩
    · exact .inr rfl
  | deserialize b => exact .inl ⟨_, resultWf_deserializeResult b, (Host.Outcome.next.inj h).symm⟩
  | checksum b => exact .inl ⟨.checksum (checksumOf b), rfl, (Host.Outcome.next.inj h).symm⟩
  | frameSize n => exact .inl ⟨.size (BitVec.ofNat 17 (totalFrameSize n)), rfl, (Host.Outcome.next.inj h).symm⟩
  | reserved110 | reserved111 => exact .inr (Host.Outcome.next.inj h).symm
  | reset | readCycle | frLinkData | frLinkClosed | frLinkError | frShort | frDrop | frWait | frEmit | frDiscard
  | frCompact => exact absurd hi (by decide)

theorem exec_codec_keeps_inv {i : Instr} {s t : State} (hi : framerOwned i = false) (hs : s.Inv) (h : exec i s = .next t) :
    t.Inv := by
  obtain ⟨r, hr, rfl⟩ | rfl := exec_codec_resultWf hi h
  · exact respond_keeps_inv hs hr
  · exact refuse_keeps_inv hs

theorem exec_keeps_inv {i : Instr} {s t : State} (hs : s.Inv) (h : exec i s = .next t) : t.Inv := by
  obtain ⟨_, hi, _⟩ | ⟨hi, _⟩ | ⟨_, _, rfl⟩ | ⟨_, hfree, ⟨_, rfl⟩ | ⟨ev, rest, _, ⟨_, rfl⟩ | ⟨_, hr⟩⟩⟩ | ⟨τ, _, hr⟩ :=
    exec_next h
  · exact exec_codec_keeps_inv hi hs h
  · exact exec_codec_keeps_inv hi hs h
  · exact respond_keeps_inv (clearFramer_keeps_inv hs) rfl
  · exact blockOnLink_keeps_inv ((framerFree_iff s).1 hfree).1 hs
  · exact refuseEvent_keeps_inv hs
  · exact runToIdle_keeps (fun _ _ _ => runTransition_keeps_inv) (cycleBound s) s t hs hr
  · exact runTransition_keeps_inv hs hr

/-! ### The statements -/

/-- Settles O53: every instruction keeps the invariant, which says nothing of the ports, and of the wait only while it is on. -/
theorem stepKeepsTheInvariant : Obligations.StepKeepsTheInvariant := fun _ _ hs h =>
  step_keeps (P := State.Inv) (fun _ _ _ hexec hs => exec_keeps_inv hs hexec) (fun _ hs => { hs with waits := by simp })
    (fun _ _ hs => { hs with }) h hs

/-- Settles O24: every instruction keeps the parameters, and they are neither the port nor the wait. -/
theorem parametersNeverChange : Obligations.ParametersNeverChange := by
  refine ⟨fun i s t => exec_keeps_params, fun s t h => ?_⟩
  exact step_keeps (P := fun u => u.params = s.params) (fun _ _ _ hexec hs => (exec_keeps_params hexec).trans hs)
    (fun _ hs => hs) (fun _ _ hs => hs) h rfl

/-- Settles O51: the sequence is quiescent, so Extract leaves it, and it is shorter than the largest frame. -/
theorem falseStartStalls : Obligations.FalseStartStalls := by
  intro x y h3 h0 hT
  have hq : Quiescent (x ++ y) :=
    .inr ⟨(byteAt_append_left x y (by omega)).trans h0, by rwa [lenField_append x y h3]⟩
  exact ⟨extract_of_quiescent hq, Nat.lt_succ_of_le (length_le_of_quiescent hq)⟩

/-- Settles O2: the decoder undoes the encoder, and the encoder the decoder. -/
theorem commandRoundTrip : Obligations.CommandRoundTrip :=
  ⟨fun _ _ => decodeCommand_encodeCommand, fun _ _ => encodeCommand_of_decodeCommand⟩

/-- Settles O3: one clause for each thing that `fetch` gives. -/
theorem stepRunsTheDecodedCommand : Obligations.StepRunsTheDecodedCommand := by
  refine ⟨fun s c rest i => step_command, fun s c rest e hf hw hc hd => ?_, fun s hf hw => step_waits hf (.inl hw),
    fun s hf hw hl => step_of_fetch_run (fetch_of_event hf hw hl), fun s c rest i => step_command_of_waiting,
    fun s hf _ hl => step_waits hf (.inr hl), fun s hf => ?_⟩
  · exact step_of_fetch_malformed ((fetch_eq_fetchCommand hf (.inl hw)).trans (fetchCommand_malformed hc hd))
  · obtain ⟨τ, hτ, hfetch⟩ := fetch_of_cycle hf
    exact ⟨τ, hτ, step_of_fetch_run hfetch⟩

/-- Settles O4: the ten words decode by computation, and a placed word is what the next step fetches. -/
theorem tableWordsDecodeAndRun : Obligations.TableWordsDecodeAndRun :=
  ⟨by decide, fun _ _ _ => step_withFetchWord⟩

/-- Settles O26: both commands ask whether a cycle is in progress before anything else. -/
theorem brokenHostDutyStops : Obligations.BrokenHostDutyStops := by
  intro s h
  have hfree := framerFree_eq_false h
  exact ⟨by rw [exec, execReset, hfree]; rfl, by rw [exec, execReadCycle, hfree]; rfl⟩

/-- Settles O28: an admitted chunk gives `afterLinkData`, another one the refusal of its event. -/
theorem linkDataTransition : Obligations.LinkDataTransition := by
  refine ⟨fun s c rest hf hl hpos hmax => ?_, fun s c rest hf hl hc => ?_⟩
  · have ha := (admitsChunk_iff c s).2 ⟨hpos, hmax⟩
    have hlink : s.link.tail = rest := by rw [hl]; rfl
    refine ⟨_, runTransition_linkData hf hl ha, rfl, rfl, rfl, hlink, List.take_left, Nat.le_add_right _ _, rfl, rfl, rfl, rfl,
      fun hacc => ?_⟩
    rw [afterLinkData_acc, List.length_append]
    exact Nat.add_le_add hacc hmax
  · exact ⟨_, runTransition_linkData_malformed hf hl (admitsChunk_eq_false hc), rfl, rfl, hf, rfl⟩

/-- Settles O42: READ_CYCLE blocks, and the blocked machine has nothing to run. -/
theorem readCycleWaitsForTheLink : Obligations.ReadCycleWaitsForTheLink :=
  ⟨fun _ => execReadCycle_blocks, fun _ hf _ hl => step_waits hf (.inr hl)⟩

/-- Settles O54: the accumulator, the output and the results are empty, and READ_SIZE is the default 16. -/
theorem resetMeetsTheInvariant : Obligations.ResetMeetsTheInvariant where
  params := by decide
  idle _ := by decide
  finish := by decide
  bound _ := by decide
  depth := by decide
  capacity := by decide
  scratch := by decide
  frames := by decide
  waits := by decide

end Machine
end Sys2Proof
